-- ==== Sys2Proof/Word.lean ====
section
/-! DEFINITION. The word types of the machine (00_scope.md R9, R10: all values are unsigned; bit 0 is the least significant). -/

namespace Sys2Proof

/-- One byte: a V register, a timer, a memory cell, an immediate `nn`. -/
abbrev Byte := BitVec 8

/-- One 16-bit word: an instruction word, `PC`, `I`, a stack entry, `FADDR`. -/
abbrev Word := BitVec 16

/-- A 4-bit field of the instruction word (00_scope.md R19). -/
abbrev Nibble := BitVec 4

/-- A register number, the field `x` or `y`; all 16 values are legal (30_encoding.md R73). -/
abbrev RegIdx := BitVec 4

/-- The 12-bit field `nnn` (30_encoding.md R71). -/
abbrev Addr := BitVec 12

end Sys2Proof
end

