-- ==== Sys2Proof/Syntax.lean ====
section
/-! DEFINITION. The instruction set: one constructor per row of spec/opcode_table.json (30_encoding.md R74, R83). -/

namespace Sys2Proof

/-- One constructor per pattern of 30_encoding.md R74, and the fallback of R78. -/
inductive Instr where
  | cls                                        -- 00E0
  | ret                                        -- 00EE
  | jp (nnn : Addr)                            -- 1nnn
  | call (nnn : Addr)                          -- 2nnn
  | seVxNn (x : RegIdx) (nn : Byte)            -- 3xnn
  | sneVxNn (x : RegIdx) (nn : Byte)           -- 4xnn
  | seVxVy (x y : RegIdx)                      -- 5xy0
  | ldVxNn (x : RegIdx) (nn : Byte)            -- 6xnn
  | addVxNn (x : RegIdx) (nn : Byte)           -- 7xnn
  | ldVxVy (x y : RegIdx)                      -- 8xy0
  | orVxVy (x y : RegIdx)                      -- 8xy1
  | andVxVy (x y : RegIdx)                     -- 8xy2
  | xorVxVy (x y : RegIdx)                     -- 8xy3
  | addVxVy (x y : RegIdx)                     -- 8xy4
  | subVxVy (x y : RegIdx)                     -- 8xy5
  | shrVx (x y : RegIdx)                       -- 8xy6, y decoded but ignored (R77)
  | subnVxVy (x y : RegIdx)                    -- 8xy7
  | shlVx (x y : RegIdx)                       -- 8xyE, y decoded but ignored (R77)
  | sneVxVy (x y : RegIdx)                     -- 9xy0
  | ldINnn (nnn : Addr)                        -- Annn
  | jpV0Nnn (nnn : Addr)                       -- Bnnn
  | rndVxNn (x : RegIdx) (nn : Byte)           -- Cxnn
  | drwVxVyN (x y : RegIdx) (n : Nibble)       -- Dxyn
  | skpVx (x : RegIdx)                         -- Ex9E
  | sknpVx (x : RegIdx)                        -- ExA1
  | ldVxDt (x : RegIdx)                        -- Fx07
  | ldVxK (x : RegIdx)                         -- Fx0A
  | ldDtVx (x : RegIdx)                        -- Fx15
  | ldStVx (x : RegIdx)                        -- Fx18
  | addIVx (x : RegIdx)                        -- Fx1E
  | ldFVx (x : RegIdx)                         -- Fx29
  | ldBVx (x : RegIdx)                         -- Fx33
  | ldMemVx (x : RegIdx)                       -- Fx55
  | ldVxMem (x : RegIdx)                       -- Fx65
  | unrecognized (w : Word)                    -- any other word, kept whole (R83; log 14)
  deriving DecidableEq, Repr

end Sys2Proof
end

