-- ==== Sys2Proof/Decode.lean ====
section
/-! DEFINITION. Decoding (30_encoding.md R71, R75), total on any bytes, and the encoder, written from the same map (R74). -/

namespace Sys2Proof

/-- `opc`, bits 15 to 12 (R71). -/
def opcField (w : Word) : Nibble := w.extractLsb' 12 4

/-- `x`, bits 11 to 8 (R71). -/
def xField (w : Word) : RegIdx := w.extractLsb' 8 4

/-- `y`, bits 7 to 4 (R71). -/
def yField (w : Word) : RegIdx := w.extractLsb' 4 4

/-- `n`, bits 3 to 0 (R71). -/
def nField (w : Word) : Nibble := w.extractLsb' 0 4

/-- `nn`, bits 7 to 0 (R71). -/
def nnField (w : Word) : Byte := w.extractLsb' 0 8

/-- `nnn`, bits 11 to 0 (R71). -/
def nnnField (w : Word) : Addr := w.extractLsb' 0 12

/-- The word of two bytes, the byte at the lower address on the most significant side (20_memory.md R52). -/
def joinBytes (hi lo : Byte) : Word := hi ++ lo

/-- The byte of a word that lies at the lower address (R52). -/
def highByte (w : Word) : Byte := w.extractLsb' 8 8

/-- The byte of a word that lies at the higher address (R52). -/
def lowByte (w : Word) : Byte := w.extractLsb' 0 8

/-- Leading nibble 8: select on `n` (R75). -/
def decodeAlu (w : Word) : Instr :=
  match (nField w).toNat with
  | 0x0 => .ldVxVy (xField w) (yField w)
  | 0x1 => .orVxVy (xField w) (yField w)
  | 0x2 => .andVxVy (xField w) (yField w)
  | 0x3 => .xorVxVy (xField w) (yField w)
  | 0x4 => .addVxVy (xField w) (yField w)
  | 0x5 => .subVxVy (xField w) (yField w)
  | 0x6 => .shrVx (xField w) (yField w)
  | 0x7 => .subnVxVy (xField w) (yField w)
  | 0xE => .shlVx (xField w) (yField w)
  | _ => .unrecognized w

/-- Leading nibble E: select on `nn` (R75). -/
def decodeKey (w : Word) : Instr :=
  if nnField w = 0x9E then .skpVx (xField w)
  else if nnField w = 0xA1 then .sknpVx (xField w)
  else .unrecognized w

/-- Leading nibble F: select on `nn` (R75). -/
def decodeMisc (w : Word) : Instr :=
  if nnField w = 0x07 then .ldVxDt (xField w)
  else if nnField w = 0x0A then .ldVxK (xField w)
  else if nnField w = 0x15 then .ldDtVx (xField w)
  else if nnField w = 0x18 then .ldStVx (xField w)
  else if nnField w = 0x1E then .addIVx (xField w)
  else if nnField w = 0x29 then .ldFVx (xField w)
  else if nnField w = 0x33 then .ldBVx (xField w)
  else if nnField w = 0x55 then .ldMemVx (xField w)
  else if nnField w = 0x65 then .ldVxMem (xField w)
  else .unrecognized w

/-- `Decode(op)` (R75, 40_step_cycle.md R94): total on all 65536 words. The last row stands for `opc` = F. -/
def decodeWord (w : Word) : Instr :=
  match (opcField w).toNat with
  | 0x0 => if w = 0x00E0 then .cls else if w = 0x00EE then .ret else .unrecognized w
  | 0x1 => .jp (nnnField w)
  | 0x2 => .call (nnnField w)
  | 0x3 => .seVxNn (xField w) (nnField w)
  | 0x4 => .sneVxNn (xField w) (nnField w)
  | 0x5 => if nField w = 0 then .seVxVy (xField w) (yField w) else .unrecognized w
  | 0x6 => .ldVxNn (xField w) (nnField w)
  | 0x7 => .addVxNn (xField w) (nnField w)
  | 0x8 => decodeAlu w
  | 0x9 => if nField w = 0 then .sneVxVy (xField w) (yField w) else .unrecognized w
  | 0xA => .ldINnn (nnnField w)
  | 0xB => .jpV0Nnn (nnnField w)
  | 0xC => .rndVxNn (xField w) (nnField w)
  | 0xD => .drwVxVyN (xField w) (yField w) (nField w)
  | 0xE => decodeKey w
  | _ => decodeMisc w

/-- Why a byte sequence gives no instruction. -/
inductive DecodeError where
  /-- Fewer than the two bytes of a word (R70). Never raised by a step: a fetch gives a whole word or faults. Safe. -/
  | truncated
  deriving DecidableEq, Repr

/-- Decode the instruction at the front of a byte sequence; answers it with the bytes after it (R70, R75). -/
def decode : List Byte → Except DecodeError (Instr × List Byte)
  | hi :: lo :: rest => .ok (decodeWord (joinBytes hi lo), rest)
  | _ => .error .truncated

/-- Format NNN (R72). -/
def packNnn (opc : Nibble) (nnn : Addr) : Word := opc ++ nnn

/-- Formats XNN and XKK (R72). -/
def packXnn (opc : Nibble) (x : RegIdx) (nn : Byte) : Word := opc ++ (x ++ nn)

/-- Format XYN (R72). -/
def packXyn (opc : Nibble) (x y : RegIdx) (n : Nibble) : Word := opc ++ (x ++ (y ++ n))

/-- The word of an instruction, from the patterns of R74. -/
def encodeWord : Instr → Word
  | .cls => 0x00E0
  | .ret => 0x00EE
  | .jp nnn => packNnn 0x1 nnn
  | .call nnn => packNnn 0x2 nnn
  | .seVxNn x nn => packXnn 0x3 x nn
  | .sneVxNn x nn => packXnn 0x4 x nn
  | .seVxVy x y => packXyn 0x5 x y 0x0
  | .ldVxNn x nn => packXnn 0x6 x nn
  | .addVxNn x nn => packXnn 0x7 x nn
  | .ldVxVy x y => packXyn 0x8 x y 0x0
  | .orVxVy x y => packXyn 0x8 x y 0x1
  | .andVxVy x y => packXyn 0x8 x y 0x2
  | .xorVxVy x y => packXyn 0x8 x y 0x3
  | .addVxVy x y => packXyn 0x8 x y 0x4
  | .subVxVy x y => packXyn 0x8 x y 0x5
  | .shrVx x y => packXyn 0x8 x y 0x6
  | .subnVxVy x y => packXyn 0x8 x y 0x7
  | .shlVx x y => packXyn 0x8 x y 0xE
  | .sneVxVy x y => packXyn 0x9 x y 0x0
  | .ldINnn nnn => packNnn 0xA nnn
  | .jpV0Nnn nnn => packNnn 0xB nnn
  | .rndVxNn x nn => packXnn 0xC x nn
  | .drwVxVyN x y n => packXyn 0xD x y n
  | .skpVx x => packXnn 0xE x 0x9E
  | .sknpVx x => packXnn 0xE x 0xA1
  | .ldVxDt x => packXnn 0xF x 0x07
  | .ldVxK x => packXnn 0xF x 0x0A
  | .ldDtVx x => packXnn 0xF x 0x15
  | .ldStVx x => packXnn 0xF x 0x18
  | .addIVx x => packXnn 0xF x 0x1E
  | .ldFVx x => packXnn 0xF x 0x29
  | .ldBVx x => packXnn 0xF x 0x33
  | .ldMemVx x => packXnn 0xF x 0x55
  | .ldVxMem x => packXnn 0xF x 0x65
  | .unrecognized w => w

/-- The two bytes of an instruction as memory holds them, high byte first (R70, R52). -/
def encode (i : Instr) : List Byte := [highByte (encodeWord i), lowByte (encodeWord i)]

/-- The instruction the decoder reads from a word given as the opcode table numbers its bits: at most 16 bits,
the bits above `nbits` zero, laid out high byte first (R70, R83). -/
def decodeTableWord (nbits w : Nat) : Option Instr :=
  if nbits ≤ 16 then
    match decode [highByte (BitVec.ofNat 16 (w % 2 ^ nbits)), lowByte (BitVec.ofNat 16 (w % 2 ^ nbits))] with
    | .ok (i, _) => some i
    | .error _ => none
  else none

end Sys2Proof
end

