-- ==== Sys2Proof/Config.lean ====
section
/-! DEFINITION. The machine's fixed sizes (00_scope.md R7) and its two free inputs (R8).
The font bytes, `Config.fontRom`, stand in Sys2Proof/Machine/Font.lean. -/

namespace Sys2Proof

/-- `MEM_SIZE` (R7): addresses 0x000 to 0xFFF. -/
@[simp] abbrev Config.memSize : Nat := 4096

/-- `PROGRAM_START` (R7). -/
@[simp] abbrev Config.programStart : Nat := 0x200

/-- `MAX_PROGRAM_BYTES` (R7): 4096 - 0x200. -/
@[simp] abbrev Config.maxProgramBytes : Nat := 3584

/-- `FONT_BASE` (R7). -/
@[simp] abbrev Config.fontBase : Nat := 0x050

/-- `FONT_SIZE` (R7). -/
@[simp] abbrev Config.fontSize : Nat := 80

/-- `GLYPH_BYTES` (R7). -/
@[simp] abbrev Config.glyphBytes : Nat := 5

/-- `STACK_CAPACITY` (R7). -/
@[simp] abbrev Config.stackCapacity : Nat := 16

/-- `DISPLAY_W` (R7). -/
@[simp] abbrev Config.displayW : Nat := 64

/-- `DISPLAY_H` (R7). -/
@[simp] abbrev Config.displayH : Nat := 32

/-- `NUM_KEYS` (R7). -/
@[simp] abbrev Config.numKeys : Nat := 16

/-- `NUM_V` (R7). -/
@[simp] abbrev Config.numV : Nat := 16

/-- `I_WIDTH` (R7): bits of the index register. -/
@[simp] abbrev Config.iWidth : Nat := 16

/-- `PC_WIDTH` (R7): bits of the program counter. -/
@[simp] abbrev Config.pcWidth : Nat := 16

/-- `INSTR_BYTES` (R7): how far a fetch, and a taken skip once more, advances `PC`. -/
@[simp] abbrev Config.instrBytes : Nat := 2

/-- `TICKS_PER_STEP` (R7). -/
@[simp] abbrev Config.ticksPerStep : Nat := 1

/-- FREE VALUE (log 1). The byte the random source gives to the `n`-th executed `Cxnn` where the host names none, counted by the
state's `randDraws` (42_load_alu.md R141, 46_host_operations.md R207): any value, under no law. -/
opaque Config.randomByte : Nat → Byte

/-- FREE VALUE (log 2). The number that settles the `n`-th choice among pressed keys in `Fx0A`
(45_keypad_timers.md R190); the machine takes it modulo the number of pressed keys, so the result is
some pressed key and nothing says which. -/
opaque Config.keyChoice : Nat → Nat

end Sys2Proof
end

