-- ==== Sys2Proof/Machine/State.lean ====
section
/-! DEFINITION. The whole machine state as plain data (10_state.md R20), the reset state (R39), and the reasons
an outcome may carry. -/

namespace Sys2Proof.Machine

/-- `STATUS` (10_state.md R34). -/
inductive RunStatus where
  | running
  | awaitingKey
  | halted
  deriving DecidableEq, Repr

/-- `CAUSE`, why the machine is Halted (10_state.md R35, 60_exceptions.md R221). -/
inductive Cause where
  | none
  | pcOutOfBounds
  | stackUnderflow
  | stackOverflow
  | memoryAccess
  | keyIndex
  deriving DecidableEq, Repr

/-- `MEM` (R36): the bytes that differ from the reset contents, addresses strictly rising (log 7). -/
abbrev Memory := List Host.Cell

/-- `DISP` (R32): 32 rows of 64 pixels, row 0 at the top, column 0 at the left. -/
abbrev Display := Vector (Vector Bool Config.displayW) Config.displayH

/-- Why a step stops with a fault: never. The spec's five fatal conditions are a NEXT state with `STATUS` = Halted
and `CAUSE` set (60_exceptions.md R224; log 5), so this type has no constructor and nothing raises one. Safe. -/
inductive Fault where
  deriving DecidableEq, Repr

/-- Why a step is refused. -/
inductive Refusal where
  /-- Raised only by an arm of `exec` whose instruction has no meaning yet; no arm does. Safe. -/
  | notModelled (mnemonic : String)
  deriving DecidableEq, Repr

/-- The machine state (R20), and three fields of the model's own (log 1, log 2). -/
structure State where
  /-- `MEM` (R36). -/
  mem : Memory
  /-- `V[0]` to `V[15]` (R21); `V[15]` is VF (R22). -/
  v : Vector Byte Config.numV
  /-- `I` (R24). -/
  i : BitVec Config.iWidth
  /-- `PC` (R25). -/
  pc : BitVec Config.pcWidth
  /-- `STK[0 .. SP-1]`, newest first (R28; log 6). -/
  stack : List Word
  /-- `DT` (R29). -/
  dt : Byte
  /-- `ST` (R30). -/
  st : Byte
  /-- `DISP` (R32). -/
  disp : Display
  /-- `KEY[0..15]`, true = pressed (R33). -/
  keys : Vector Bool Config.numKeys
  /-- `STATUS` (R34). -/
  status : RunStatus
  /-- `CAUSE` (R35). -/
  cause : Cause
  /-- `FADDR` (R35). -/
  faddr : Word
  /-- The model's own: how many random bytes have been consumed (log 1). -/
  randDraws : Nat
  /-- The model's own: how many choices among pressed keys have been drawn (log 2). -/
  keyDraws : Nat
  /-- The model's own: the byte that the host, or the pin `rand`, has ready for a `Cxnn` of this step; none where
  nobody names the byte, and always between two steps (46_host_operations.md R207, R209, R210; log 1). -/
  randIn : Option Byte
  deriving DecidableEq, Repr

/-- The state after `create()` (10_state.md R39, 70_reset_and_hazards.md R250). The model's own fields: DESIGN CHOICE 0, 0
and none (log 1, log 2). -/
def State.reset : State where
  mem := []
  v := Vector.replicate _ 0
  i := 0
  pc := BitVec.ofNat 16 Config.programStart
  stack := []
  dt := 0
  st := 0
  disp := Vector.replicate _ (Vector.replicate _ false)
  keys := Vector.replicate _ false
  status := .running
  cause := .none
  faddr := 0
  randDraws := 0
  keyDraws := 0
  randIn := none

end Sys2Proof.Machine
end

