-- ==== Sys2Proof/Machine/Ops.lean ====
section
/-! DEFINITION. The named operations over memory, registers, stack, display and run status, and the parts of the
step cycle common to every instruction: tick, fetch, PC advance, fault entry, completion. -/

namespace Sys2Proof.Machine

/-! ### Memory (20_memory.md) -/

/-- The reset contents of memory, which an unlisted address reads as (10_state.md R39; log 3, log 7). -/
def Memory.initial (a : Nat) : Byte :=
  if Config.fontBase ≤ a ∧ a < Config.fontBase + Config.fontSize then Config.fontRom.getD (a - Config.fontBase) 0 else 0

/-- The canonical form: addresses strictly rising and inside memory, no entry equal to the reset contents (log 7). -/
abbrev Memory.wf (m : Memory) : Prop :=
  m.Pairwise (fun p q => p.1 < q.1) ∧ ∀ p ∈ m, p.1 < Config.memSize ∧ p.2 ≠ Memory.initial p.1

/-- `MemRead(a, 1)` (00_scope.md R13, 20_memory.md R56). -/
def Memory.read : Memory → Nat → Byte
  | [], a => Memory.initial a
  | (k, b) :: rest, a => if k = a then b else Memory.read rest a

/-- Put a byte into the sorted list, replacing an entry of the same address. -/
def Memory.insert (a : Nat) (b : Byte) : Memory → Memory
  | [] => [(a, b)]
  | (k, c) :: rest =>
    if a < k then (a, b) :: (k, c) :: rest
    else if a = k then (a, b) :: rest
    else (k, c) :: Memory.insert a b rest

/-- `MemWrite(a, 1, b)` (00_scope.md R13, 20_memory.md R57): every byte of memory is writable. Outside memory nothing is
written; no instruction gets there, since each checks its whole range first (R55; log 7). -/
def Memory.write (m : Memory) (a : Nat) (b : Byte) : Memory :=
  if a < Config.memSize then
    if b = Memory.initial a then m.filter (fun p => p.1 != a) else Memory.insert a b m
  else m

/-- Store bytes at rising addresses from `a` (20_memory.md R54). -/
def Memory.writeBytes (m : Memory) (a : Nat) : List Byte → Memory
  | [] => m
  | b :: bs => Memory.writeBytes (m.write a b) (a + 1) bs

/-! ### Writing one component (10_state.md R20; `a <- v` of 00_scope.md R12) -/

/-- `MEM <- x`. -/
def State.setMem (s : State) (x : Memory) : State := { s with mem := x }

/-- `I <- x`. -/
def State.setI (s : State) (x : Word) : State := { s with i := x }

/-- `PC <- x`. -/
def State.setPc (s : State) (x : Word) : State := { s with pc := x }

/-- `STK <- x`. -/
def State.setStack (s : State) (x : List Word) : State := { s with stack := x }

/-- `DT <- x`. -/
def State.setDt (s : State) (x : Byte) : State := { s with dt := x }

/-- `ST <- x`. -/
def State.setSt (s : State) (x : Byte) : State := { s with st := x }

/-- `DISP <- x`. -/
def State.setDisp (s : State) (x : Display) : State := { s with disp := x }

/-- `KEY <- x`. -/
def State.setKeys (s : State) (x : Vector Bool Config.numKeys) : State := { s with keys := x }

/-- `STATUS <- x`. -/
def State.setStatus (s : State) (x : RunStatus) : State := { s with status := x }

/-- The byte that is ready for a `Cxnn` <- `x` (46_host_operations.md R207, R209; log 1). -/
def State.setRandIn (s : State) (x : Option Byte) : State := { s with randIn := x }

/-- One random byte has been consumed, the one that was ready if there was one (46_host_operations.md R207; log 1). -/
def State.usedRand (s : State) : State := { s with randDraws := s.randDraws + 1, randIn := none }

/-- One choice among pressed keys has been drawn (45_keypad_timers.md R190; log 2). -/
def State.usedKeyDraw (s : State) : State := { s with keyDraws := s.keyDraws + 1 }

/-! ### Registers (10_state.md) -/

/-- `V[x]` (R21). -/
def State.getV (s : State) (x : RegIdx) : Byte := s.v[x.toNat]'x.isLt

/-- `V[x] <- b` (R21). -/
def State.setV (s : State) (x : RegIdx) (b : Byte) : State := { s with v := s.v.set x.toNat b x.isLt }

/-- The number of VF, the flag register (R22). -/
def vf : RegIdx := 15

/-- `V[0] .. V[n-1]` as bytes, lowest register first (the range of 43_index_memory.md R156). -/
def State.firstV (s : State) (n : Nat) : List Byte := s.v.toList.take n

/-- `V[k] <- MEM[I + k]` for `k` below `n`, lowest register first (43_index_memory.md R157). -/
def State.loadV (s : State) : Nat → State
  | 0 => s
  | k + 1 => (s.loadV k).setV (BitVec.ofNat 4 k) (s.mem.read (s.i.toNat + k))

/-! ### Call stack (10_state.md R28) -/

/-- `SP`, the depth (R28; log 6). -/
def State.sp (s : State) : Nat := s.stack.length

/-- `STK[j]`, `STK[0]` the oldest; none at or above `SP` (R28; log 6). -/
def State.stk? (s : State) (j : Nat) : Option Word := s.stack.reverse[j]?

/-! ### Display (10_state.md R32) -/

/-- `DISP[y][x]`; false outside the 64×32 grid, which no instruction reads. -/
def Display.pixel (d : Display) (y x : Nat) : Bool :=
  if h : y < Config.displayH ∧ x < Config.displayW then (d[y]'h.1)[x]'h.2 else false

/-- `DISP[y][x] <- DISP[y][x] ^ 1`; nothing outside the grid. -/
def Display.flip (d : Display) (y x : Nat) : Display :=
  if h : y < Config.displayH ∧ x < Config.displayW then
    d.set y ((d[y]'h.1).set x (!(d[y]'h.1)[x]'h.2) h.2) h.1
  else d

/-- All 0 (44_display.md R170). -/
def Display.clear : Display := Vector.replicate _ (Vector.replicate _ false)

/-- One pixel of a sprite: note a collision if it is on, then flip it (44_display.md R171, R176). -/
def Display.drawPixel (p : Display × Bool) (yy xx : Nat) : Display × Bool :=
  (Display.flip p.1 yy xx, p.2 || Display.pixel p.1 yy xx)

/-- One sprite row: bit `7 - k` of the byte goes to column `x0 + k` (R173; log 4); rows and columns past the
bottom and right edges are clipped (R174). -/
def Display.drawRow (x0 yy : Nat) (b : Byte) (p : Display × Bool) : Display × Bool :=
  if yy ≤ 31 then
    (List.range 8).foldl
      (fun q k => if x0 + k ≤ 63 ∧ b.getLsbD (7 - k) = true then Display.drawPixel q yy (x0 + k) else q) p
  else p

/-- The drawing loop of `Dxyn`: the new display and the collision flag `c` (44_display.md R171). -/
def Display.drawSprite (m : Memory) (base x0 y0 n : Nat) (d : Display) : Display × Bool :=
  (List.range n).foldl (fun p r => Display.drawRow x0 (y0 + r) (m.read (base + r)) p) (d, false)

/-! ### Keypad (10_state.md R33) -/

/-- `KEY[k]`; false outside 0..15, which no instruction reads (45_keypad_timers.md R187). -/
def State.key (s : State) (k : Nat) : Bool := if h : k < Config.numKeys then s.keys[k] else false

/-- `PressedSet`, lowest key first (00_scope.md R14). -/
def State.pressed (s : State) : List Nat := (List.range Config.numKeys).filter (fun k => s.key k)

/-- `choose(P)` (45_keypad_timers.md R190): a free choice among the pressed keys (log 2); none if no key is pressed. -/
def State.chooseKey? (s : State) : Option Nat :=
  s.pressed[Config.keyChoice s.keyDraws % s.pressed.length]?

/-! ### Free inputs -/

/-- `Rand()` (46_host_operations.md R207, R209): the byte that is ready, and where none is named a free value (log 1). -/
def State.rand (s : State) : Byte := s.randIn.getD (Config.randomByte s.randDraws)

/-! ### The step cycle (40_step_cycle.md) and faults (60_exceptions.md) -/

/-- One timer's tick (R91). -/
def tickTimer (t : Byte) : Byte := if t = 0 then 0 else t - 1

/-- `Tick()` (R91). -/
def State.tick (s : State) : State := { s with dt := tickTimer s.dt, st := tickTimer s.st }

/-- `Tick()` performed `n` times (`TICKS_PER_STEP` of 00_scope.md R7). -/
def State.ticks (s : State) : Nat → State
  | 0 => s
  | n + 1 => (s.ticks n).tick

/-- `Fetch16(PC)` (R92): the word at PC, high byte first; none when a byte of it would lie above 0xFFF. -/
def State.fetch? (s : State) : Option Word :=
  if s.pc.toNat ≤ 0xFFE then some (joinBytes (s.mem.read s.pc.toNat) (s.mem.read (s.pc.toNat + 1))) else none

/-- `PC <- PC + 2` (R93), 2 being `INSTR_BYTES` (00_scope.md R7). -/
def State.advance (s : State) : State := s.setPc (s.pc + BitVec.ofNat Config.pcWidth Config.instrBytes)

/-- TAKING A FAULT, the machine's one exception (60_exceptions.md R224, R225): `STATUS` Halted, `CAUSE` and `FADDR`
recorded, `PC` at `a`, the address of the faulting instruction; nothing else changes. There is no return (R227, R230). -/
def State.takeFault (s : State) (c : Cause) (info a : Word) : State :=
  { s with status := .halted, cause := c, faddr := info, pc := a }

/-- `a`, the address the executing word was fetched from, seen from the execute phase, in which `PC = a + 2`
(40_step_cycle.md R93; log 13). -/
def State.fetchedFrom (s : State) : Word := s.pc - BitVec.ofNat Config.pcWidth Config.instrBytes

/-- `raise Fault(c, info)` in an execute phase (00_scope.md R14). -/
def raiseFault (c : Cause) (info : Word) (s : State) : Host.Outcome State Fault Refusal :=
  .next (s.takeFault c info s.fetchedFrom)

/-- The end of an execute phase that neither holds nor faults: `STATUS <- Running` (40_step_cycle.md R101). -/
def complete (s : State) : Host.Outcome State Fault Refusal := .next (s.setStatus .running)

/-- The end of a waiting `Fx0A`: `PC <- a`, `STATUS <- AwaitingKey` (45_keypad_timers.md R189). -/
def hold (s : State) : Host.Outcome State Fault Refusal :=
  .next ((s.setPc s.fetchedFrom).setStatus .awaitingKey)

end Sys2Proof.Machine
end

