-- ==== Sys2Proof/Machine/Operands.lean ====
section
/-! DEFINITION. The operand forms: effective addresses and their range check (20_memory.md R55, 43_index_memory.md R153),
jump targets, sprite coordinates (44_display.md R172), glyph addresses, decimal digits. -/

namespace Sys2Proof.Machine

/-- The `len` bytes from `I` all lie inside memory (20_memory.md R55): no effective address is above 0xFFF. True of an
empty access whatever `I` holds (44_display.md R175). -/
def State.inMemory (s : State) (len : Nat) : Bool := len == 0 || decide (s.i.toNat + len ≤ Config.memSize)

/-- The datum of every MemoryAccess fault, the lowest out-of-range address (60_exceptions.md R221; log 15). -/
abbrev memoryFaultDatum : Word := 0x1000

/-- Run `k` if the `len` bytes from `I` lie inside memory, else raise MemoryAccess before any access (43_index_memory.md R153). -/
def withRange (len : Nat) (k : State → Host.Outcome State Fault Refusal) (s : State) : Host.Outcome State Fault Refusal :=
  if s.inMemory len then k s else raiseFault .memoryAccess memoryFaultDatum s

/-- `zext_16(nnn)` (30_encoding.md R73). -/
def zextAddr (nnn : Addr) : Word := nnn.setWidth 16

/-- `zext_16((nnn + V[0]) mod 4096)`, the target of `Bnnn` (41_control_flow.md R113; log 9). -/
def State.indexedTarget (s : State) (nnn : Addr) : Word :=
  BitVec.ofNat 16 ((nnn.toNat + (s.getV 0).toNat) % 4096)

/-- `PC <- PC + 2` when the condition holds: the extra advance of a skip (41_control_flow.md R118). -/
def State.skipIf (s : State) (c : Bool) : State := if c then s.advance else s

/-- `x0 = V[x] mod 64` (44_display.md R172). -/
def State.spriteX (s : State) (x : RegIdx) : Nat := (s.getV x).toNat % Config.displayW

/-- `y0 = V[y] mod 32` (44_display.md R172). -/
def State.spriteY (s : State) (y : RegIdx) : Nat := (s.getV y).toNat % Config.displayH

/-- `FONT_BASE + 5 * (V[x] & 0x0F)` (43_index_memory.md R152). -/
def State.glyphAddress (s : State) (x : RegIdx) : Word :=
  BitVec.ofNat 16 (Config.fontBase + Config.glyphBytes * ((s.getV x).toNat % 16))

/-- The decimal digits of a byte: hundreds, tens, units (43_index_memory.md R155). -/
def decimalDigits (b : Byte) : List Byte :=
  [BitVec.ofNat 8 (b.toNat / 100), BitVec.ofNat 8 (b.toNat / 10 % 10), BitVec.ofNat 8 (b.toNat % 10)]

end Sys2Proof.Machine
end

