-- ==== Sys2Proof/Machine/ControlFlow.lean ====
section
/-! DEFINITION. Control transfer (41_control_flow.md) and the unrecognized instruction (40_step_cycle.md R96).
Every meaning is an execute phase: the tick, the fetch and `PC <- a + 2` have happened (R90 to R93). -/

namespace Sys2Proof.Machine

/-- `00EE` RET (R110): pop into PC, or StackUnderflow. -/
def execRet (s : State) : Host.Outcome State Fault Refusal :=
  match s.stack with
  | [] => raiseFault .stackUnderflow s.fetchedFrom s
  | top :: rest => complete ((s.setStack rest).setPc top)

/-- `1nnn` JP (R111). -/
def execJp (nnn : Addr) (s : State) : Host.Outcome State Fault Refusal :=
  complete (s.setPc (zextAddr nnn))

/-- `2nnn` CALL (R112): push PC, which is `a + 2`, then jump, or StackOverflow. -/
def execCall (nnn : Addr) (s : State) : Host.Outcome State Fault Refusal :=
  if s.sp < Config.stackCapacity then complete ((s.setStack (s.pc :: s.stack)).setPc (zextAddr nnn))
  else raiseFault .stackOverflow s.fetchedFrom s

/-- `Bnnn` JP_V0_NNN (R113): always `V[0]`, VF not written. -/
def execJpV0Nnn (nnn : Addr) (s : State) : Host.Outcome State Fault Refusal :=
  complete (s.setPc (s.indexedTarget nnn))

/-- `3xnn` SE_VX_NN (R114). -/
def execSeVxNn (x : RegIdx) (nn : Byte) (s : State) : Host.Outcome State Fault Refusal :=
  complete (s.skipIf (decide (s.getV x = nn)))

/-- `4xnn` SNE_VX_NN (R115). -/
def execSneVxNn (x : RegIdx) (nn : Byte) (s : State) : Host.Outcome State Fault Refusal :=
  complete (s.skipIf (decide (s.getV x ≠ nn)))

/-- `5xy0` SE_VX_VY (R116). -/
def execSeVxVy (x y : RegIdx) (s : State) : Host.Outcome State Fault Refusal :=
  complete (s.skipIf (decide (s.getV x = s.getV y)))

/-- `9xy0` SNE_VX_VY (R117). -/
def execSneVxVy (x y : RegIdx) (s : State) : Host.Outcome State Fault Refusal :=
  complete (s.skipIf (decide (s.getV x ≠ s.getV y)))

/-- UNRECOGNIZED (40_step_cycle.md R96): the execute phase is empty, whatever the word. -/
def execUnrecognized (_w : Word) (s : State) : Host.Outcome State Fault Refusal := complete s

end Sys2Proof.Machine
end

