-- ==== Sys2Proof/Machine/Flags.lean ====
section
/-! DEFINITION. The arithmetic laws (42_load_alu.md R120) and every value VF receives as a flag (10_state.md R22). -/

namespace Sys2Proof.Machine

/-- A flag as the byte written to VF: 1 or 0. -/
def flagByte (f : Bool) : Byte := if f then 1 else 0

/-- `(a + b) mod 256` (R120). -/
def addByte (a b : Byte) : Byte := BitVec.ofNat 8 ((a.toNat + b.toNat) % 256)

/-- The carry of `8xy4`: the sum exceeds 255 (R136). -/
def carryFlag (a b : Byte) : Bool := decide (255 < a.toNat + b.toNat)

/-- `(a - b) mod 256` (R120). -/
def subByte (a b : Byte) : Byte := BitVec.ofNat 8 ((a.toNat + 256 - b.toNat) % 256)

/-- The no-borrow flag of `8xy5` and `8xy7`: minuend at least subtrahend (R120, R137, R139). -/
def noBorrowFlag (a b : Byte) : Bool := decide (b.toNat ≤ a.toNat)

/-- `a >> 1`, bit 7 of the result 0 (R120). -/
def shiftRightByte (a : Byte) : Byte := a >>> 1

/-- The bit a right shift pushes out, `a[0]` (R138). -/
def shiftRightFlag (a : Byte) : Bool := a.getLsbD 0

/-- `(a << 1) mod 256`, bit 0 of the result 0 (R120). -/
def shiftLeftByte (a : Byte) : Byte := a <<< 1

/-- The bit a left shift pushes out, `a[7]` (R140). -/
def shiftLeftFlag (a : Byte) : Bool := a.getLsbD 7

/-- `zext_16((I + b) mod 4096)` (43_index_memory.md R151; log 9). -/
def addIndex (i : Word) (b : Byte) : Word := BitVec.ofNat 16 ((i.toNat + b.toNat) % 4096)

/-- The flag of `Fx1E`: the sum exceeds 0xFFF (R151). -/
def indexOverflowFlag (i : Word) (b : Byte) : Bool := decide (0xFFF < i.toNat + b.toNat)

/-- Write the result to `V[x]`, then the flag to VF, the flag last (10_state.md R23). -/
def State.setResultAndFlag (s : State) (x : RegIdx) (result : Byte) (flag : Bool) : State :=
  (s.setV x result).setV vf (flagByte flag)

end Sys2Proof.Machine
end

