-- ==== Sys2Proof/Machine/DisplayOps.lean ====
section
/-! DEFINITION. Display instructions (44_display.md). Execute phases only. -/

namespace Sys2Proof.Machine

/-- `00E0` CLS (R170): VF not written. -/
def execCls (s : State) : Host.Outcome State Fault Refusal := complete (s.setDisp Display.clear)

/-- The result of the drawing loop for a sprite of `n` rows at `(V[x] mod 64, V[y] mod 32)` (R171, R172). -/
def State.drawn (s : State) (x y : RegIdx) (n : Nibble) : Display × Bool :=
  Display.drawSprite s.mem s.i.toNat (s.spriteX x) (s.spriteY y) n.toNat s.disp

/-- The drawing of `Dxyn`, once the sprite is known to lie inside memory: the display, then VF = collision, last (R171, R176). -/
def drawAt (x y : RegIdx) (n : Nibble) (s : State) : Host.Outcome State Fault Refusal :=
  complete ((s.setDisp (s.drawn x y n).1).setV vf (flagByte (s.drawn x y n).2))

/-- `Dxyn` DRW_VX_VY_N (R171, R177): all `n` bytes are checked first; `n = 0` cannot fault (R175). -/
def execDrwVxVyN (x y : RegIdx) (n : Nibble) (s : State) : Host.Outcome State Fault Refusal :=
  withRange n.toNat (drawAt x y n) s

end Sys2Proof.Machine
end

