-- ==== Sys2Proof/Machine/IndexMemory.lean ====
section
/-! DEFINITION. Index register and memory instructions (43_index_memory.md). Execute phases only; `I` is never
changed by an access (R153). -/

namespace Sys2Proof.Machine

/-- `Annn` LD_I_NNN (R150). -/
def execLdINnn (nnn : Addr) (s : State) : Host.Outcome State Fault Refusal :=
  complete (s.setI (zextAddr nnn))

/-- `Fx1E` ADD_I_VX (R151): modulo 4096; VF = 1 when the sum exceeds 0xFFF, else 0. -/
def execAddIVx (x : RegIdx) (s : State) : Host.Outcome State Fault Refusal :=
  complete ((s.setI (addIndex s.i (s.getV x))).setV vf (flagByte (indexOverflowFlag s.i (s.getV x))))

/-- `Fx29` LD_F_VX (R152): the glyph of the low nibble. -/
def execLdFVx (x : RegIdx) (s : State) : Host.Outcome State Fault Refusal :=
  complete (s.setI (s.glyphAddress x))

/-- The stores of `Fx33`, once the range is known to be inside memory (R155). -/
def storeDigits (x : RegIdx) (s : State) : Host.Outcome State Fault Refusal :=
  complete (s.setMem (s.mem.writeBytes s.i.toNat (decimalDigits (s.getV x))))

/-- `Fx33` LD_B_VX (R155). -/
def execLdBVx (x : RegIdx) (s : State) : Host.Outcome State Fault Refusal := withRange 3 (storeDigits x) s

/-- The stores of `Fx55`, once the range is known to be inside memory (R156). -/
def storeRegisters (x : RegIdx) (s : State) : Host.Outcome State Fault Refusal :=
  complete (s.setMem (s.mem.writeBytes s.i.toNat (s.firstV (x.toNat + 1))))

/-- `Fx55` LD_MEM_VX (R156): `V[0]` to `V[x]` inclusive. -/
def execLdMemVx (x : RegIdx) (s : State) : Host.Outcome State Fault Refusal :=
  withRange (x.toNat + 1) (storeRegisters x) s

/-- The loads of `Fx65`, once the range is known to be inside memory (R157). -/
def loadRegisters (x : RegIdx) (s : State) : Host.Outcome State Fault Refusal := complete (s.loadV (x.toNat + 1))

/-- `Fx65` LD_VX_MEM (R157): `V[0]` to `V[x]` inclusive. -/
def execLdVxMem (x : RegIdx) (s : State) : Host.Outcome State Fault Refusal :=
  withRange (x.toNat + 1) (loadRegisters x) s

end Sys2Proof.Machine
end

