-- ==== Sys2Proof/Machine/KeypadTimers.lean ====
section
/-! DEFINITION. Keypad and timer instructions, the key wait (45_keypad_timers.md). Execute phases only. -/

namespace Sys2Proof.Machine

/-- Test the key numbered by `V[x]`, or raise KeyIndex when `V[x] > 15`; the value is not masked (R187). -/
def withKey (x : RegIdx) (k : Bool → State → Host.Outcome State Fault Refusal) (s : State) :
    Host.Outcome State Fault Refusal :=
  if (s.getV x).toNat ≤ 15 then k (s.key (s.getV x).toNat) s
  else raiseFault .keyIndex ((s.getV x).setWidth 16) s

/-- Skip when the tested key is down (R185). -/
def skipWhenDown (down : Bool) (s : State) : Host.Outcome State Fault Refusal := complete (s.skipIf down)

/-- Skip when the tested key is up (R186). -/
def skipWhenUp (down : Bool) (s : State) : Host.Outcome State Fault Refusal := complete (s.skipIf (!down))

/-- `Ex9E` SKP_VX (R185). -/
def execSkpVx (x : RegIdx) (s : State) : Host.Outcome State Fault Refusal :=
  withKey x skipWhenDown s

/-- `ExA1` SKNP_VX (R186). -/
def execSknpVx (x : RegIdx) (s : State) : Host.Outcome State Fault Refusal :=
  withKey x skipWhenUp s

/-- `Fx0A` LD_VX_K (R189, R190): hold while no key is down, else store some pressed key (log 2). -/
def execLdVxK (x : RegIdx) (s : State) : Host.Outcome State Fault Refusal :=
  match s.chooseKey? with
  | none => hold s
  | some k => complete (s.setV x (BitVec.ofNat 8 k)).usedKeyDraw

/-- `Fx07` LD_VX_DT (R192): the value after this step's tick. -/
def execLdVxDt (x : RegIdx) (s : State) : Host.Outcome State Fault Refusal :=
  complete (s.setV x s.dt)

/-- `Fx15` LD_DT_VX (R193). -/
def execLdDtVx (x : RegIdx) (s : State) : Host.Outcome State Fault Refusal :=
  complete (s.setDt (s.getV x))

/-- `Fx18` LD_ST_VX (R194). -/
def execLdStVx (x : RegIdx) (s : State) : Host.Outcome State Fault Refusal :=
  complete (s.setSt (s.getV x))

end Sys2Proof.Machine
end

