-- ==== Sys2Proof/Machine/LoadAlu.lean ====
section
/-! DEFINITION. Register loads, arithmetic, logic, shifts, random (42_load_alu.md). Execute phases only. -/

namespace Sys2Proof.Machine

/-- `6xnn` LD_VX_NN (R130). -/
def execLdVxNn (x : RegIdx) (nn : Byte) (s : State) : Host.Outcome State Fault Refusal :=
  complete (s.setV x nn)

/-- `7xnn` ADD_VX_NN (R131): wraps, no flag effect. -/
def execAddVxNn (x : RegIdx) (nn : Byte) (s : State) : Host.Outcome State Fault Refusal :=
  complete (s.setV x (addByte (s.getV x) nn))

/-- `8xy0` LD_VX_VY (R132). -/
def execLdVxVy (x y : RegIdx) (s : State) : Host.Outcome State Fault Refusal :=
  complete (s.setV x (s.getV y))

/-- `8xy1` OR_VX_VY (R133): VF not written. -/
def execOrVxVy (x y : RegIdx) (s : State) : Host.Outcome State Fault Refusal :=
  complete (s.setV x (s.getV x ||| s.getV y))

/-- `8xy2` AND_VX_VY (R134): VF not written. -/
def execAndVxVy (x y : RegIdx) (s : State) : Host.Outcome State Fault Refusal :=
  complete (s.setV x (s.getV x &&& s.getV y))

/-- `8xy3` XOR_VX_VY (R135): VF not written. -/
def execXorVxVy (x y : RegIdx) (s : State) : Host.Outcome State Fault Refusal :=
  complete (s.setV x (s.getV x ^^^ s.getV y))

/-- `8xy4` ADD_VX_VY (R136): VF = carry. -/
def execAddVxVy (x y : RegIdx) (s : State) : Host.Outcome State Fault Refusal :=
  complete (s.setResultAndFlag x (addByte (s.getV x) (s.getV y)) (carryFlag (s.getV x) (s.getV y)))

/-- `8xy5` SUB_VX_VY (R137): VF = no borrow. -/
def execSubVxVy (x y : RegIdx) (s : State) : Host.Outcome State Fault Refusal :=
  complete (s.setResultAndFlag x (subByte (s.getV x) (s.getV y)) (noBorrowFlag (s.getV x) (s.getV y)))

/-- `8xy6` SHR_VX (R138): `V[x]` in place, `y` ignored (30_encoding.md R77); VF = the bit shifted out. -/
def execShrVx (x _y : RegIdx) (s : State) : Host.Outcome State Fault Refusal :=
  complete (s.setResultAndFlag x (shiftRightByte (s.getV x)) (shiftRightFlag (s.getV x)))

/-- `8xy7` SUBN_VX_VY (R139): the reversed subtraction into `V[x]`; VF = no borrow. -/
def execSubnVxVy (x y : RegIdx) (s : State) : Host.Outcome State Fault Refusal :=
  complete (s.setResultAndFlag x (subByte (s.getV y) (s.getV x)) (noBorrowFlag (s.getV y) (s.getV x)))

/-- `8xyE` SHL_VX (R140): `V[x]` in place, `y` ignored (30_encoding.md R77); VF = the bit shifted out. -/
def execShlVx (x _y : RegIdx) (s : State) : Host.Outcome State Fault Refusal :=
  complete (s.setResultAndFlag x (shiftLeftByte (s.getV x)) (shiftLeftFlag (s.getV x)))

/-- `Cxnn` RND_VX_NN (R141): the random byte is the one ready, else a free value; one byte is consumed even when `nn = 0` (log 1). -/
def execRndVxNn (x : RegIdx) (nn : Byte) (s : State) : Host.Outcome State Fault Refusal :=
  complete (s.setV x (s.rand &&& nn)).usedRand

end Sys2Proof.Machine
end

