-- ==== Sys2Proof/Machine/Step.lean ====
section
/-! DEFINITION. `step()` (40_step_cycle.md R90): tick, fetch, PC advance, decode, execute. -/

namespace Sys2Proof.Machine

/-- `step()` (R90). Halted: nothing changes (R99). AwaitingKey: exactly as from Running (R100). A fetch past the end of
memory takes the PcOutOfBounds fault after the tick, with PC not advanced (R92, 60_exceptions.md R225). -/
def step (s : State) : Host.Outcome State Fault Refusal :=
  match s.status with
  | .halted => .next s
  | .running | .awaitingKey =>
    match (s.ticks Config.ticksPerStep).fetch? with
    | none => .next ((s.ticks Config.ticksPerStep).takeFault .pcOutOfBounds s.pc s.pc)
    | some op => exec (decodeWord op) (s.ticks Config.ticksPerStep).advance

/-- The state with the instruction of these bits (numbered as the opcode table numbers them) stored at `PC`, high byte
first: it stands for the host's `load_program` of that word (46_host_operations.md R201; log 10). -/
def State.withFetchWord (s : State) (nbits w : Nat) : State :=
  s.setMem (s.mem.writeBytes s.pc.toNat
    [highByte (BitVec.ofNat 16 (w % 2 ^ nbits)), lowByte (BitVec.ofNat 16 (w % 2 ^ nbits))])

end Sys2Proof.Machine
end

