-- ==== Sys2Proof/Machine/HostOps.lean ====
section
/-! DEFINITION. The boundary operations of the host (46_host_operations.md R200 to R208, R210), which happen only between two
steps (R203). They are no part of `step`. -/

namespace Sys2Proof.Machine

/-- `create()` (R200): the reset state, whatever the machine was. The model's two draw counters go on, so that a new
machine's free values are fresh (log 1, log 2). -/
def State.create (s : State) : State :=
  { State.reset with randDraws := s.randDraws, keyDraws := s.keyDraws }

/-- The bytes fit before the end of memory (R201). -/
def fitsMemory (bytes : List Byte) : Bool := decide (bytes.length ≤ Config.maxProgramBytes)

/-- `load_program(bytes)` on a machine that has not stepped (R201): none is the operation's failure, which changes nothing (R222). -/
def State.loadProgram? (s : State) (bytes : List Byte) : Option State :=
  if fitsMemory bytes then some (s.setMem (s.mem.writeBytes Config.programStart bytes)) else none

/-- `set_key(index, pressed)` (R204): none is the operation's failure, which changes nothing (R222). Legal in every `STATUS`. -/
def State.setKey? (s : State) (index : Nat) (pressed : Bool) : Option State :=
  if h : index < Config.numKeys then some (s.setKeys (s.keys.set index pressed h)) else none

/-- `read_display()` (R205): 2048 pixels, row-major; element `y * 64 + x` is `DISP[y][x]`. -/
def State.readDisplay (s : State) : List Bool :=
  (List.range (Config.displayH * Config.displayW)).map
    (fun j => s.disp.pixel (j / Config.displayW) (j % Config.displayW))

/-- `delay_timer_value()` (R206). -/
def State.delayTimerValue (s : State) : Byte := s.dt

/-- `sound_timer_value()` (R206). -/
def State.soundTimerValue (s : State) : Byte := s.st

/-- `sound_active = (ST != 0)` (R206). -/
def State.soundActive (s : State) : Bool := s.st != 0

/-- A machine as the host drives it: the state, and whether `load_program` still has a meaning, which it has once and
only before the first step (R201; log 11), or a byte of the load port has (R209). -/
structure Session where
  machine : State
  mayLoad : Bool
  deriving DecidableEq, Repr

/-- The moves of the host (R210). -/
inductive HostMove where
  | create
  | loadProgram (bytes : List Byte)
  | setKey (index : Nat) (pressed : Bool)
  /-- `step()` (R202); the byte for a `Cxnn`, if it executes one, is not named. -/
  | step
  /-- `step()` with the byte that the host's random source supplies if it executes a `Cxnn` (R207, R210). -/
  | stepWith (rand : Byte)
  deriving DecidableEq, Repr

/-- What a move answers the host. -/
inductive HostReply where
  /-- The operation took place. -/
  | done
  /-- The operation failed and changed nothing (R222). Not a fault of the core. -/
  | failed
  deriving DecidableEq, Repr

/-- The session of the first `create()`, in which a program may be loaded (R200, R251).
DESIGN CHOICE (log 17): it starts at draw counter 0, so two such sessions, read as two instances side by side
(60_exceptions.md R234), meet the same free values, which the spec does not say (46_host_operations.md R207). A statement
about several instances ranges over sessions with counters of their own. -/
def Session.fresh : Session := { machine := State.reset, mayLoad := true }

/-- One move of the host (R210). None: the spec gives the move no meaning (a `load_program` after a step or a second
one, R201; log 11). -/
def Session.move (h : Session) : HostMove → Option (Session × HostReply)
  | .create => some ({ machine := h.machine.create, mayLoad := true }, .done)
  | .loadProgram bytes =>
    if h.mayLoad then
      match h.machine.loadProgram? bytes with
      | some s => some ({ machine := s, mayLoad := false }, .done)
      | none => some (h, .failed)
    else none
  | .setKey index pressed =>
    match h.machine.setKey? index pressed with
    | some s => some ({ h with machine := s }, .done)
    | none => some (h, .failed)
  | .step =>
    match Sys2Proof.Machine.step h.machine with
    | .next s => some ({ machine := s, mayLoad := false }, .done)
    | .fault _ | .refused _ => none
  | .stepWith rand =>
    match Sys2Proof.Machine.step (h.machine.setRandIn (some rand)) with
    | .next s => some ({ machine := s.setRandIn none, mayLoad := false }, .done)
    | .fault _ | .refused _ => none

end Sys2Proof.Machine
end

