-- ==== Sys2Proof/Machine/Ports.lean ====
section
/-! DEFINITION. The core as a module with pins (46_host_operations.md R209): the input ports, what one pulse of them does, and
the output ports. It adds no behaviour to the operations of `HostOps` (R209). -/

namespace Sys2Proof.Machine

/-- The input ports (R209). -/
structure PortsIn where
  rst : Bool
  ldWe : Bool
  ldAddr : Addr
  ldData : Byte
  stepEn : Bool
  key : BitVec Config.numKeys
  rand : Byte
  deriving DecidableEq, Repr

/-- The output ports (R209); element `y * 64 + x` of `disp` is `DISP[y][x]`. -/
structure PortsOut where
  disp : List Bool
  dt : Byte
  st : Byte
  soundActive : Bool
  status : BitVec 2
  cause : BitVec 3
  faddr : Word
  deriving DecidableEq, Repr

/-- The code of `STATUS` on the output `status` (10_state.md R34, R209). -/
def RunStatus.code : RunStatus → BitVec 2
  | .running => 0
  | .awaitingKey => 1
  | .halted => 2

/-- The code of `CAUSE` on the output `cause` (60_exceptions.md R221, R209). -/
def Cause.code : Cause → BitVec 3
  | .none => 0
  | .pcOutOfBounds => 1
  | .stackUnderflow => 2
  | .stackOverflow => 3
  | .memoryAccess => 4
  | .keyIndex => 5

/-- Every output port (R209). -/
def State.portsOut (s : State) : PortsOut where
  disp := s.readDisplay
  dt := s.delayTimerValue
  st := s.soundTimerValue
  soundActive := s.soundActive
  status := s.status.code
  cause := s.cause.code
  faddr := s.faddr

/-- `key` as sampled at the start of a step (R209): `KEY[k]` is bit `k` of the port. -/
def State.withKeyPort (s : State) (port : BitVec Config.numKeys) : State :=
  s.setKeys (Vector.ofFn (fun k => port.getLsbD k.val))

/-- The byte write of `ld_we` (R209): none below 0x200. `Session.pulse` says when it is legal. -/
def State.loadByte? (s : State) (addr : Addr) (data : Byte) : Option State :=
  if Config.programStart ≤ addr.toNat then some (s.setMem (s.mem.write addr.toNat data)) else none

/-- `ld_we` is legal: after `rst`, which every session is, and before the first `step_en`, so not together with it
(R209; log 11). -/
def Session.loadLegal (h : Session) (p : PortsIn) : Bool := h.mayLoad && !p.stepEn

/-- One pulse of the input ports (R209). `rst` dominates every other input; then a legal byte write, which leaves loading
open for the next byte; then one step on the keys of the port, in which a `Cxnn` gets the byte of the port `rand`; with no input active nothing
happens. None: a write that
is not legal or not in 0x200 to 0xFFF, to which the spec gives no meaning (log 11). -/
def Session.pulse (h : Session) (p : PortsIn) : Option Session :=
  if p.rst then (h.move .create).map Prod.fst
  else if p.ldWe then
    if h.loadLegal p then (h.machine.loadByte? p.ldAddr p.ldData).map (fun s => { h with machine := s }) else none
  else if p.stepEn then
    (Session.move { h with machine := h.machine.withKeyPort p.key } (.stepWith p.rand)).map Prod.fst
  else some h

end Sys2Proof.Machine
end

