-- ==== Sys2Proof/Safety.lean ====
section
/-! DEFINITION. The terms in which claims are stated: what a state leaves unchanged, the invariant of reachable states,
a safe state, and the spec's two whole-machine tables (10_state.md R26, 60_exceptions.md R221) as functions of the state
before the step. -/

namespace Sys2Proof.Machine

/-- The parts of a state a frame speaks of, each register on its own (10_state.md R20; log 1, log 2). -/
inductive Part where
  | mem
  | v (x : RegIdx)
  | i
  | pc
  | stack
  | dt
  | st
  | disp
  | keys
  | status
  | cause
  | faddr
  | randDraws
  | keyDraws
  | randIn
  deriving DecidableEq, Repr

/-- The part holds in `t` what it held in `s`; memory is compared byte by byte. -/
def Part.Same (s t : State) : Part → Prop
  | .mem => ∀ a, t.mem.read a = s.mem.read a
  | .v x => t.getV x = s.getV x
  | .i => t.i = s.i
  | .pc => t.pc = s.pc
  | .stack => t.stack = s.stack
  | .dt => t.dt = s.dt
  | .st => t.st = s.st
  | .disp => t.disp = s.disp
  | .keys => t.keys = s.keys
  | .status => t.status = s.status
  | .cause => t.cause = s.cause
  | .faddr => t.faddr = s.faddr
  | .randDraws => t.randDraws = s.randDraws
  | .keyDraws => t.keyDraws = s.keyDraws
  | .randIn => t.randIn = s.randIn

/-- Every part but the named ones is unchanged. -/
def UnchangedExcept (ps : List Part) (s t : State) : Prop := ∀ p, p ∉ ps → p.Same s t

/-- Every general register, for the frame of `Fx65` (43_index_memory.md R157). -/
def allRegisters : List Part := (List.range Config.numV).map (fun k => Part.v (BitVec.ofNat 4 k))

/-- `t` is `s` after the fault entry of 60_exceptions.md R224 to R226: Halted, the cause and the datum recorded, `PC` at
the faulting instruction, nothing else changed. -/
def HaltedAt (c : Cause) (info a : Word) (s t : State) : Prop :=
  t.status = .halted ∧ t.cause = c ∧ t.faddr = info ∧ t.pc = a ∧
    UnchangedExcept [.status, .cause, .faddr, .pc] s t

/-- Change the state of an outcome that has one. -/
def onNext (f : State → State) : Host.Outcome State Fault Refusal → Host.Outcome State Fault Refusal
  | .next s => .next (f s)
  | .fault r => .fault r
  | .refused r => .refused r

/-- The machine has not halted (60_exceptions.md R227). -/
def State.Safe (s : State) : Prop := s.status ≠ .halted

/-- What holds of every state a run from `create()` reaches. -/
structure State.Inv (s : State) : Prop where
  /-- Equal memories are equal data (log 7). -/
  memCanonical : s.mem.wf
  /-- 10_state.md R24: bits 15 to 12 of `I` are always 0. -/
  indexInRange : s.i.toNat ≤ 0xFFF
  /-- 10_state.md R27: the largest reachable `PC` is 0x1002. -/
  pcInRange : s.pc.toNat ≤ 0x1002
  /-- 10_state.md R28: `SP` is 0 to 16. -/
  depthInRange : s.sp ≤ Config.stackCapacity
  /-- 92_eei_decisions.md D24: stack entries are 0 to 0x1000. -/
  entriesInRange : ∀ r ∈ s.stack, r.toNat ≤ 0x1000
  /-- 10_state.md R35: a cause is recorded exactly when the machine is Halted. -/
  causeRecorded : s.status = .halted ↔ s.cause ≠ .none
  /-- 10_state.md R35: no datum without a fault. -/
  datumRecorded : s.status ≠ .halted → s.faddr = 0
  /-- 20_memory.md R61, 40_step_cycle.md R101: while waiting, the word at `PC` is an `Fx0A`. -/
  waitsAtKeyWait : s.status = .awaitingKey → ∃ op x, s.fetch? = some op ∧ decodeWord op = .ldVxK x

/-- The session's invariant: the machine's, a program may be loaded only into a machine that runs (46_host_operations.md
R201), and no random byte is held between two moves (10_state.md R38; log 1). -/
structure Session.Inv (h : Session) : Prop where
  machineInv : h.machine.Inv
  loadsWhileRunning : h.mayLoad = true → h.machine.status = .running
  noByteHeld : h.machine.randIn = none

/-- The table of 60_exceptions.md R221: the cause and the datum of the fault that a step from `s` raises, where `op` is
the word fetched, none if it raises no fault. -/
def State.executeFault? (s : State) (op : Word) : Option (Cause × Word) :=
  match decodeWord op with
  | .ret => if s.sp = 0 then some (.stackUnderflow, s.pc) else none
  | .call _ => if 16 ≤ s.sp then some (.stackOverflow, s.pc) else none
  | .ldBVx _ => if 0xFFF < s.i.toNat + 2 then some (.memoryAccess, 0x1000) else none
  | .ldMemVx x | .ldVxMem x => if 0xFFF < s.i.toNat + x.toNat then some (.memoryAccess, 0x1000) else none
  | .drwVxVyN _ _ n => if 0 < n.toNat ∧ 0xFFF < s.i.toNat + n.toNat - 1 then some (.memoryAccess, 0x1000) else none
  | .skpVx x | .sknpVx x =>
    if 15 < (s.getV x).toNat then some (.keyIndex, (s.getV x).setWidth 16) else none
  | .cls | .jp _ | .seVxNn _ _ | .sneVxNn _ _ | .seVxVy _ _ | .ldVxNn _ _ | .addVxNn _ _ | .ldVxVy _ _ | .orVxVy _ _
  | .andVxVy _ _ | .xorVxVy _ _ | .addVxVy _ _ | .subVxVy _ _ | .shrVx _ _ | .subnVxVy _ _ | .shlVx _ _ | .sneVxVy _ _
  | .ldINnn _ | .jpV0Nnn _ | .rndVxNn _ _ | .ldVxDt _ | .ldVxK _ | .ldDtVx _ | .ldStVx _ | .addIVx _ | .ldFVx _
  | .unrecognized _ => none

/-- The fault a step from `s` raises, fetch first (60_exceptions.md R221, R228). -/
def State.fault? (s : State) : Option (Cause × Word) :=
  match s.fetch? with
  | none => some (.pcOutOfBounds, s.pc)
  | some op => s.executeFault? op

/-- The table of 10_state.md R26: `PC` after a step that executed `i`, fetched from `s.pc`, without a fault. -/
def State.pcAfter (s : State) (i : Instr) : Word :=
  match i with
  | .jp nnn | .call nnn => nnn.setWidth 16
  | .ret => s.stack.headD 0
  | .jpV0Nnn nnn => BitVec.ofNat 16 ((nnn.toNat + (s.getV 0).toNat) % 4096)
  | .seVxNn x nn => if s.getV x = nn then s.pc + 4 else s.pc + 2
  | .sneVxNn x nn => if s.getV x = nn then s.pc + 2 else s.pc + 4
  | .seVxVy x y => if s.getV x = s.getV y then s.pc + 4 else s.pc + 2
  | .sneVxVy x y => if s.getV x = s.getV y then s.pc + 2 else s.pc + 4
  | .skpVx x => if s.key (s.getV x).toNat then s.pc + 4 else s.pc + 2
  | .sknpVx x => if s.key (s.getV x).toNat then s.pc + 2 else s.pc + 4
  | .ldVxK _ => if s.pressed = [] then s.pc else s.pc + 2
  | .cls | .ldVxNn _ _ | .addVxNn _ _ | .ldVxVy _ _ | .orVxVy _ _ | .andVxVy _ _ | .xorVxVy _ _ | .addVxVy _ _
  | .subVxVy _ _ | .shrVx _ _ | .subnVxVy _ _ | .shlVx _ _ | .ldINnn _ | .rndVxNn _ _ | .drwVxVyN _ _ _ | .ldVxDt _
  | .ldDtVx _ | .ldStVx _ | .addIVx _ | .ldFVx _ | .ldBVx _ | .ldMemVx _ | .ldVxMem _ | .unrecognized _ => s.pc + 2

/-- The sprite pixel over display position (`yy`, `xx`): the sprite of `n` rows at `base`, drawn at (`x0`, `y0`), has a
1 bit there (44_display.md R173, R174). -/
def spriteBit (m : Memory) (base x0 y0 n yy xx : Nat) : Bool :=
  decide (y0 ≤ yy ∧ yy < y0 + n ∧ x0 ≤ xx ∧ xx < x0 + 8) && (m.read (base + (yy - y0))).getLsbD (7 - (xx - x0))

end Sys2Proof.Machine

namespace Sys2Proof

/-- The instruction takes a VF flag effect (the table of 10_state.md R22). -/
def Instr.writesFlag : Instr → Bool
  | .addVxVy _ _ | .subVxVy _ _ | .shrVx _ _ | .subnVxVy _ _ | .shlVx _ _ | .drwVxVyN _ _ _ | .addIVx _ => true
  | .cls | .ret | .jp _ | .call _ | .seVxNn _ _ | .sneVxNn _ _ | .seVxVy _ _ | .ldVxNn _ _ | .addVxNn _ _ | .ldVxVy _ _
  | .orVxVy _ _ | .andVxVy _ _ | .xorVxVy _ _ | .sneVxVy _ _ | .ldINnn _ | .jpV0Nnn _ | .rndVxNn _ _ | .skpVx _
  | .sknpVx _ | .ldVxDt _ | .ldVxK _ | .ldDtVx _ | .ldStVx _ | .ldFVx _ | .ldBVx _ | .ldMemVx _ | .ldVxMem _
  | .unrecognized _ => false

/-- The instruction names register `r` as a destination, by its field `x` or, for `Fx65`, in the range `V[0]` to `V[x]`
(10_state.md R21, R22). -/
def Instr.namesDestination (r : RegIdx) : Instr → Bool
  | .ldVxNn x _ | .addVxNn x _ | .ldVxVy x _ | .orVxVy x _ | .andVxVy x _ | .xorVxVy x _ | .addVxVy x _ | .subVxVy x _
  | .shrVx x _ | .subnVxVy x _ | .shlVx x _ | .rndVxNn x _ | .ldVxDt x | .ldVxK x => r == x
  | .ldVxMem x => decide (r.toNat ≤ x.toNat)
  | .cls | .ret | .jp _ | .call _ | .seVxNn _ _ | .sneVxNn _ _ | .seVxVy _ _ | .sneVxVy _ _ | .ldINnn _ | .jpV0Nnn _
  | .drwVxVyN _ _ _ | .skpVx _ | .sknpVx _ | .ldDtVx _ | .ldStVx _ | .addIVx _ | .ldFVx _ | .ldBVx _ | .ldMemVx _
  | .unrecognized _ => false

/-- The instruction reads the keypad (10_state.md R33). -/
def Instr.readsKeys : Instr → Bool
  | .skpVx _ | .sknpVx _ | .ldVxK _ => true
  | .cls | .ret | .jp _ | .call _ | .seVxNn _ _ | .sneVxNn _ _ | .seVxVy _ _ | .ldVxNn _ _ | .addVxNn _ _ | .ldVxVy _ _
  | .orVxVy _ _ | .andVxVy _ _ | .xorVxVy _ _ | .addVxVy _ _ | .subVxVy _ _ | .shrVx _ _ | .subnVxVy _ _ | .shlVx _ _
  | .sneVxVy _ _ | .ldINnn _ | .jpV0Nnn _ | .rndVxNn _ _ | .drwVxVyN _ _ _ | .ldVxDt _ | .ldDtVx _ | .ldStVx _
  | .addIVx _ | .ldFVx _ | .ldBVx _ | .ldMemVx _ | .ldVxMem _ | .unrecognized _ => false

end Sys2Proof
end

