-- ==== Sys2Proof/Certificates/Slice0/Obligations.lean ====
section
/-! DEFINITION. What is to be proved of the model, one proposition each. A statement about `exec` is about the execute
phase, in which `PC` already holds `a + 2` (40_step_cycle.md R93); `StepRunsDecodedInstruction` carries it to `step`. -/

open Sys2Proof Sys2Proof.Machine

/-! ### Encoding (30_encoding.md) -/

/-- R71, R74, R75: decoding the bytes of a well-formed instruction gives it back, with every operand at every value. -/
def Obligations.DecodeAfterEncodeIsIdentity : Prop :=
  ∀ (i : Instr) (rest : List Byte), i.wellFormed = true → decode (encode i ++ rest) = .ok (i, rest)

/-- R75, R83: no bit of a word is lost by decoding it: encoding the decoded instruction gives the word back. -/
def Obligations.EncodeAfterDecodeIsIdentity : Prop :=
  ∀ w : Word, encodeWord (decodeWord w) = w

/-- R74, R78: of the 34 rows, a word is an instance of exactly the row of the instruction it decodes to; a word that
matches no row, and no other, decodes to the unrecognized instruction. -/
def Obligations.DecoderSelectsByMaskAndMatch : Prop :=
  (∀ (w : Word) (r : OpcodeRow), r ∈ opcodeRows → (r.hits w = true ↔ (decodeWord w).row = r)) ∧
  (∀ w : Word, (decodeWord w).wellFormed = true) ∧
  (∀ w : Word, recognizedWord w = false ↔ decodeWord w = .unrecognized w)

/-- 95_test_vectors.md 2.1: words written out from the patterns decode to the instructions they stand for. -/
def Obligations.SampleWordsDecode : Prop :=
  decodeWord 0x00E0 = .cls ∧ decodeWord 0x00EE = .ret ∧ decodeWord 0x01E0 = .unrecognized 0x01E0 ∧
  decodeWord 0x1ABC = .jp 0xABC ∧ decodeWord 0x3A7F = .seVxNn 10 0x7F ∧ decodeWord 0x5121 = .unrecognized 0x5121 ∧
  decodeWord 0x8AB5 = .subVxVy 10 11 ∧ decodeWord 0x8ABE = .shlVx 10 11 ∧ decodeWord 0xBFF0 = .jpV0Nnn 0xFF0 ∧
  decodeWord 0xD125 = .drwVxVyN 1 2 5 ∧ decodeWord 0xE1A1 = .sknpVx 1 ∧ decodeWord 0xFF65 = .ldVxMem 15

/-! ### Display (44_display.md) -/

/-- R170: every pixel off, read by the host as 2048 zeros; VF and everything else unchanged. -/
def Obligations.ClsClearsDisplay : Prop :=
  decodeWord 0x00E0 = .cls ∧
  ∀ s : State, ∃ t, exec .cls s = .next t ∧ t.status = .running ∧
    (∀ y x, Display.pixel t.disp y x = false) ∧ t.readDisplay = List.replicate 2048 false ∧
    UnchangedExcept [.disp, .status] s t

/-- R171 to R177: with the sprite inside memory (or `n = 0`), each on-screen pixel under a 1 bit is flipped and no other,
and VF is 1 exactly when some such pixel was on, else 0; with a sprite byte past 0xFFF nothing is drawn and the machine
halts. Rests on the spec's own choices: bit 7 leftmost (D13, log 4), the check covers clipped rows (D15), `n = 0` draws
nothing (D29), and what a halted machine holds (D8, D30, log 5). -/
def Obligations.DrwFlipsSpritePixelsAndReportsCollision : Prop :=
  ∀ (x y : RegIdx) (n : Nibble) (a : Word) (s : State), s.pc = a + 2 →
    decodeWord (packXyn 0xD x y n) = .drwVxVyN x y n ∧
    (n = 0 ∨ s.i.toNat + n.toNat ≤ 0x1000 → ∃ t, exec (.drwVxVyN x y n) s = .next t ∧ t.status = .running ∧
      (∀ yy xx, Display.pixel t.disp yy xx = (Display.pixel s.disp yy xx ^^
        (decide (yy ≤ 31 ∧ xx ≤ 63) &&
          spriteBit s.mem s.i.toNat ((s.getV x).toNat % 64) ((s.getV y).toNat % 32) n.toNat yy xx))) ∧
      (t.getV vf = 1 ∨ t.getV vf = 0) ∧
      (t.getV vf = 1 ↔ ∃ yy xx, yy ≤ 31 ∧ xx ≤ 63 ∧
        spriteBit s.mem s.i.toNat ((s.getV x).toNat % 64) ((s.getV y).toNat % 32) n.toNat yy xx = true ∧
        Display.pixel s.disp yy xx = true) ∧
      UnchangedExcept [.disp, .v vf, .status] s t) ∧
    (n ≠ 0 → 0x1000 < s.i.toNat + n.toNat → ∃ t, exec (.drwVxVyN x y n) s = .next t ∧
      HaltedAt .memoryAccess 0x1000 a s t)

/-- R178: drawing the same sprite twice at the same position gives the display back, and the second draw reports a
collision exactly when some on-screen pixel under a 1 bit was off before the first. The registers that give the position
are not VF, which the first draw overwrites, so that the second would be at another position: one such draw at a time is in
`DrwFlipsSpritePixelsAndReportsCollision`. Which pixels lie under a 1 bit rests on the spec's own choices: bit 7 leftmost
(D13, from general knowledge, log 4) and row `r` downward from the top (D14, log 16). -/
def Obligations.DrawingTwiceRestoresDisplay : Prop :=
  ∀ (x y : RegIdx) (n : Nibble) (s t : State), x ≠ vf → y ≠ vf →
    exec (.drwVxVyN x y n) s = .next t → t.status = .running →
    ∃ u, exec (.drwVxVyN x y n) t = .next u ∧ u.status = .running ∧ u.disp = s.disp ∧
      (u.getV vf = 1 ↔ ∃ yy xx, yy ≤ 31 ∧ xx ≤ 63 ∧
        spriteBit s.mem s.i.toNat ((s.getV x).toNat % 64) ((s.getV y).toNat % 32) n.toNat yy xx = true ∧
        Display.pixel s.disp yy xx = false)

/-! ### Control transfer (41_control_flow.md) -/

/-- R110: the newest entry becomes PC and is popped, the older ones stay; on an empty stack StackUnderflow at `a`. What a
halted machine holds is the spec's own choice (D8, D30, log 5). -/
def Obligations.RetPopsOrUnderflows : Prop :=
  decodeWord 0x00EE = .ret ∧
  ∀ (a : Word) (s : State), s.pc = a + 2 →
    (s.sp ≠ 0 → ∃ t, exec .ret s = .next t ∧ t.status = .running ∧
      s.stk? (s.sp - 1) = some t.pc ∧ t.sp = s.sp - 1 ∧ (∀ j, j < t.sp → t.stk? j = s.stk? j) ∧
      UnchangedExcept [.pc, .stack, .status] s t) ∧
    (s.sp = 0 → ∃ t, exec .ret s = .next t ∧ HaltedAt .stackUnderflow a a s t)

/-- R111: PC becomes the target, unchecked. -/
def Obligations.JpSetsPc : Prop :=
  ∀ (nnn : Addr) (s : State), decodeWord (packNnn 0x1 nnn) = .jp nnn ∧
    ∃ t, exec (.jp nnn) s = .next t ∧ t.status = .running ∧ t.pc.toNat = nnn.toNat ∧ UnchangedExcept [.pc, .status] s t

/-- R112: `a + 2` is pushed and PC becomes the target; on a full stack StackOverflow at `a`. What a halted machine holds is
the spec's own choice (D8, D30, log 5). -/
def Obligations.CallPushesOrOverflows : Prop :=
  ∀ (nnn : Addr) (a : Word) (s : State), s.pc = a + 2 →
    decodeWord (packNnn 0x2 nnn) = .call nnn ∧
    (s.sp < 16 → ∃ t, exec (.call nnn) s = .next t ∧ t.status = .running ∧ t.pc.toNat = nnn.toNat ∧
      t.sp = s.sp + 1 ∧ t.stk? s.sp = some (a + 2) ∧ (∀ j, j < s.sp → t.stk? j = s.stk? j) ∧
      UnchangedExcept [.pc, .stack, .status] s t) ∧
    (16 ≤ s.sp → ∃ t, exec (.call nnn) s = .next t ∧ HaltedAt .stackOverflow a a s t)

/-- R113: the target is `(nnn + V0) mod 4096`; VF is not written. The wrap is the spec's own choice (D6, log 9). -/
def Obligations.JpV0AddsV0ModuloMemory : Prop :=
  ∀ (nnn : Addr) (s : State), decodeWord (packNnn 0xB nnn) = .jpV0Nnn nnn ∧
    ∃ t, exec (.jpV0Nnn nnn) s = .next t ∧ t.status = .running ∧
      t.pc.toNat = (nnn.toNat + (s.getV 0).toNat) % 4096 ∧ UnchangedExcept [.pc, .status] s t

/-- R114, R115: the two skips on an immediate are complements. -/
def Obligations.SkipsOnImmediate : Prop :=
  ∀ (x : RegIdx) (nn : Byte) (s : State),
    decodeWord (packXnn 0x3 x nn) = .seVxNn x nn ∧ decodeWord (packXnn 0x4 x nn) = .sneVxNn x nn ∧
    (∃ t, exec (.seVxNn x nn) s = .next t ∧ t.status = .running ∧
      t.pc = (if s.getV x = nn then s.pc + 2 else s.pc) ∧ UnchangedExcept [.pc, .status] s t) ∧
    (∃ t, exec (.sneVxNn x nn) s = .next t ∧ t.status = .running ∧
      t.pc = (if s.getV x = nn then s.pc else s.pc + 2) ∧ UnchangedExcept [.pc, .status] s t)

/-- R116, R117: the two skips on registers are complements. -/
def Obligations.SkipsOnRegisters : Prop :=
  ∀ (x y : RegIdx) (s : State),
    decodeWord (packXyn 0x5 x y 0) = .seVxVy x y ∧ decodeWord (packXyn 0x9 x y 0) = .sneVxVy x y ∧
    (∃ t, exec (.seVxVy x y) s = .next t ∧ t.status = .running ∧
      t.pc = (if s.getV x = s.getV y then s.pc + 2 else s.pc) ∧ UnchangedExcept [.pc, .status] s t) ∧
    (∃ t, exec (.sneVxVy x y) s = .next t ∧ t.status = .running ∧
      t.pc = (if s.getV x = s.getV y then s.pc else s.pc + 2) ∧ UnchangedExcept [.pc, .status] s t)

/-- 40_step_cycle.md R96: the execute phase of a word that matches no row is empty, and a step that fetches one ticks the
timers, advances PC by 2 and changes nothing else but the run status. -/
def Obligations.UnrecognizedDoesNothing : Prop :=
  (∀ w : Word, recognizedWord w = false → decodeWord w = .unrecognized w) ∧
  (∀ (w : Word) (s : State), ∃ t, exec (.unrecognized w) s = .next t ∧ t.status = .running ∧ UnchangedExcept [.status] s t) ∧
  (∀ (w : Word) (s : State), s.status ≠ .halted → s.fetch? = some w → recognizedWord w = false →
    ∃ t, step s = .next t ∧ t.status = .running ∧ t.pc = s.pc + 2 ∧ t.dt.toNat = s.dt.toNat - 1 ∧
      t.st.toNat = s.st.toNat - 1 ∧ UnchangedExcept [.pc, .dt, .st, .status] s t)

/-! ### Loads, arithmetic, logic, shifts, random (42_load_alu.md) -/

/-- R130. -/
def Obligations.LdVxNnLoadsImmediate : Prop :=
  ∀ (x : RegIdx) (nn : Byte) (s : State), decodeWord (packXnn 0x6 x nn) = .ldVxNn x nn ∧
    ∃ t, exec (.ldVxNn x nn) s = .next t ∧ t.status = .running ∧ t.getV x = nn ∧ UnchangedExcept [.v x, .status] s t

/-- R131: wraps modulo 256, and VF is not written as a flag. -/
def Obligations.AddVxNnWrapsWithoutFlag : Prop :=
  ∀ (x : RegIdx) (nn : Byte) (s : State), decodeWord (packXnn 0x7 x nn) = .addVxNn x nn ∧
    ∃ t, exec (.addVxNn x nn) s = .next t ∧ t.status = .running ∧
      (t.getV x).toNat = ((s.getV x).toNat + nn.toNat) % 256 ∧ UnchangedExcept [.v x, .status] s t

/-- R132. -/
def Obligations.LdVxVyCopies : Prop :=
  ∀ (x y : RegIdx) (s : State), decodeWord (packXyn 0x8 x y 0) = .ldVxVy x y ∧
    ∃ t, exec (.ldVxVy x y) s = .next t ∧ t.status = .running ∧ t.getV x = s.getV y ∧ UnchangedExcept [.v x, .status] s t

/-- R133, R134, R135: bitwise on all 8 bits; VF is left unchanged unless it is the destination (D31). -/
def Obligations.LogicIsBitwiseWithoutFlag : Prop :=
  ∀ (x y : RegIdx) (s : State),
    decodeWord (packXyn 0x8 x y 1) = .orVxVy x y ∧ decodeWord (packXyn 0x8 x y 2) = .andVxVy x y ∧
    decodeWord (packXyn 0x8 x y 3) = .xorVxVy x y ∧
    (∃ t, exec (.orVxVy x y) s = .next t ∧ t.status = .running ∧
      (∀ k, (t.getV x).getLsbD k = ((s.getV x).getLsbD k || (s.getV y).getLsbD k)) ∧ UnchangedExcept [.v x, .status] s t) ∧
    (∃ t, exec (.andVxVy x y) s = .next t ∧ t.status = .running ∧
      (∀ k, (t.getV x).getLsbD k = ((s.getV x).getLsbD k && (s.getV y).getLsbD k)) ∧ UnchangedExcept [.v x, .status] s t) ∧
    (∃ t, exec (.xorVxVy x y) s = .next t ∧ t.status = .running ∧
      (∀ k, (t.getV x).getLsbD k = ((s.getV x).getLsbD k ^^ (s.getV y).getLsbD k)) ∧ UnchangedExcept [.v x, .status] s t)

/-- R136: the sum modulo 256 and the carry; the carry wins when VF is the destination. -/
def Obligations.AddVxVyWrapsAndCarries : Prop :=
  ∀ (x y : RegIdx) (s : State), decodeWord (packXyn 0x8 x y 4) = .addVxVy x y ∧
    ∃ t, exec (.addVxVy x y) s = .next t ∧ t.status = .running ∧
      (x ≠ vf → (t.getV x).toNat = ((s.getV x).toNat + (s.getV y).toNat) % 256) ∧
      t.getV vf = (if 255 < (s.getV x).toNat + (s.getV y).toNat then 1 else 0) ∧
      UnchangedExcept [.v x, .v vf, .status] s t

/-- R137: `Vx - Vy` wrapping, and the no-borrow flag; the flag wins when VF is the destination. -/
def Obligations.SubVxVyWrapsAndReportsNoBorrow : Prop :=
  ∀ (x y : RegIdx) (s : State), decodeWord (packXyn 0x8 x y 5) = .subVxVy x y ∧
    ∃ t, exec (.subVxVy x y) s = .next t ∧ t.status = .running ∧
      (x ≠ vf → (t.getV x).toNat =
        if (s.getV y).toNat ≤ (s.getV x).toNat then (s.getV x).toNat - (s.getV y).toNat
        else (s.getV x).toNat + 256 - (s.getV y).toNat) ∧
      t.getV vf = (if (s.getV y).toNat ≤ (s.getV x).toNat then 1 else 0) ∧
      UnchangedExcept [.v x, .v vf, .status] s t

/-- R139: `Vy - Vx` wrapping into `Vx`, and the no-borrow flag; the flag wins when VF is the destination. -/
def Obligations.SubnVxVyWrapsAndReportsNoBorrow : Prop :=
  ∀ (x y : RegIdx) (s : State), decodeWord (packXyn 0x8 x y 7) = .subnVxVy x y ∧
    ∃ t, exec (.subnVxVy x y) s = .next t ∧ t.status = .running ∧
      (x ≠ vf → (t.getV x).toNat =
        if (s.getV x).toNat ≤ (s.getV y).toNat then (s.getV y).toNat - (s.getV x).toNat
        else (s.getV y).toNat + 256 - (s.getV x).toNat) ∧
      t.getV vf = (if (s.getV x).toNat ≤ (s.getV y).toNat then 1 else 0) ∧
      UnchangedExcept [.v x, .v vf, .status] s t

/-- R138, R140, 30_encoding.md R77: `Vx` in place, `y` ignored, VF the bit shifted out, which wins when VF is the
destination. That `y` is ignored is the spec's own choice (D31, log 14, log 16); that VF is written last is its own
resolution of a conflict with the quoted row (C6, D27, log 16). -/
def Obligations.ShiftsMoveOneBitIntoVf : Prop :=
  ∀ (x y : RegIdx) (s : State),
    decodeWord (packXyn 0x8 x y 0x6) = .shrVx x y ∧ decodeWord (packXyn 0x8 x y 0xE) = .shlVx x y ∧
    (∃ t, exec (.shrVx x y) s = .next t ∧ t.status = .running ∧
      (x ≠ vf → (t.getV x).toNat = (s.getV x).toNat / 2) ∧ (t.getV vf).toNat = (s.getV x).toNat % 2 ∧
      UnchangedExcept [.v x, .v vf, .status] s t) ∧
    (∃ t, exec (.shlVx x y) s = .next t ∧ t.status = .running ∧
      (x ≠ vf → (t.getV x).toNat = 2 * (s.getV x).toNat % 256) ∧ (t.getV vf).toNat = (s.getV x).toNat / 128 ∧
      UnchangedExcept [.v x, .v vf, .status] s t)

/-- R141: the random byte masked by `nn`, and one byte consumed: the byte the host or the pin `rand` has ready
(46_host_operations.md R207, R209), or, where none is named, the free byte of this draw, whatever it is (log 1). -/
def Obligations.RndMasksOneFreshByte : Prop :=
  ∀ (x : RegIdx) (nn : Byte) (s : State), decodeWord (packXnn 0xC x nn) = .rndVxNn x nn ∧
    ∃ t, exec (.rndVxNn x nn) s = .next t ∧ t.status = .running ∧
      (∀ b, s.randIn = some b → t.getV x = b &&& nn) ∧
      (s.randIn = none → t.getV x = Config.randomByte s.randDraws &&& nn) ∧
      t.randDraws = s.randDraws + 1 ∧ t.randIn = none ∧
      UnchangedExcept [.v x, .randDraws, .randIn, .status] s t

/-! ### Index register and memory (43_index_memory.md) -/

/-- R150. -/
def Obligations.LdINnnLoadsIndex : Prop :=
  ∀ (nnn : Addr) (s : State), decodeWord (packNnn 0xA nnn) = .ldINnn nnn ∧
    ∃ t, exec (.ldINnn nnn) s = .next t ∧ t.status = .running ∧ t.i.toNat = nnn.toNat ∧ UnchangedExcept [.i, .status] s t

/-- R151: modulo 4096, with VF = 1 exactly when the sum exceeds 0xFFF. The wrap is the spec's own choice (D5, log 9). -/
def Obligations.AddIVxWrapsAndReportsOverflow : Prop :=
  ∀ (x : RegIdx) (s : State), decodeWord (packXnn 0xF x 0x1E) = .addIVx x ∧
    ∃ t, exec (.addIVx x) s = .next t ∧ t.status = .running ∧
      t.i.toNat = (s.i.toNat + (s.getV x).toNat) % 4096 ∧
      t.getV vf = (if 0xFFF < s.i.toNat + (s.getV x).toNat then 1 else 0) ∧
      UnchangedExcept [.i, .v vf, .status] s t

/-- R152: `0x050 + 5 * (Vx mod 16)`. The glyph layout is the spec's own choice (D16). -/
def Obligations.LdFVxPointsAtGlyph : Prop :=
  ∀ (x : RegIdx) (s : State), decodeWord (packXnn 0xF x 0x29) = .ldFVx x ∧
    ∃ t, exec (.ldFVx x) s = .next t ∧ t.status = .running ∧
      t.i.toNat = 0x050 + 5 * ((s.getV x).toNat % 16) ∧ UnchangedExcept [.i, .status] s t

/-- 10_state.md R41, 43_index_memory.md R152: where the 80 bytes at 0x050 to 0x09F read as at reset, which a loaded program
keeps, the five bytes at the glyph's address are that digit's bytes of `Config.fontRom`, the model's PRESUMED parameter
(log 3), whatever they are. Nothing is asked of the rest of memory. -/
def Obligations.GlyphBytesAreFontRom : Prop :=
  ∀ (x : RegIdx) (s : State), (∀ c, 0x050 ≤ c → c ≤ 0x09F → s.mem.read c = Memory.initial c) → ∃ t, exec (.ldFVx x) s = .next t ∧
    ∀ r, r < 5 → t.mem.read (t.i.toNat + r) = Config.fontRom.getD (5 * ((s.getV x).toNat % 16) + r) 0

/-- R155: three digit bytes at `I`, `I + 1`, `I + 2`, every other byte kept; past 0xFFF nothing is stored and the machine
halts. That nothing is stored or loaded, and what a halted machine holds, is the spec's own choice (D7, D8, D30,
log 5). -/
def Obligations.LdBVxStoresDecimalDigits : Prop :=
  ∀ (x : RegIdx) (a : Word) (s : State), s.pc = a + 2 →
    decodeWord (packXnn 0xF x 0x33) = .ldBVx x ∧
    (s.i.toNat + 2 ≤ 0xFFF → ∃ t, exec (.ldBVx x) s = .next t ∧ t.status = .running ∧
      (t.mem.read s.i.toNat).toNat = (s.getV x).toNat / 100 ∧
      (t.mem.read (s.i.toNat + 1)).toNat = (s.getV x).toNat / 10 % 10 ∧
      (t.mem.read (s.i.toNat + 2)).toNat = (s.getV x).toNat % 10 ∧
      (∀ c, c < s.i.toNat ∨ s.i.toNat + 2 < c → t.mem.read c = s.mem.read c) ∧
      UnchangedExcept [.mem, .status] s t) ∧
    (0xFFF < s.i.toNat + 2 → ∃ t, exec (.ldBVx x) s = .next t ∧ HaltedAt .memoryAccess 0x1000 a s t)

/-- R156: `V[k]` at `I + k` for `k` up to `x`, every other byte kept, `I` and the registers unchanged; past 0xFFF nothing
is stored and the machine halts. That nothing is stored or loaded, and what a halted machine holds, is the spec's own choice (D7, D8, D30,
log 5). -/
def Obligations.LdMemVxStoresRegisters : Prop :=
  ∀ (x : RegIdx) (a : Word) (s : State), s.pc = a + 2 →
    decodeWord (packXnn 0xF x 0x55) = .ldMemVx x ∧
    (s.i.toNat + x.toNat ≤ 0xFFF → ∃ t, exec (.ldMemVx x) s = .next t ∧ t.status = .running ∧
      (∀ k : RegIdx, k.toNat ≤ x.toNat → t.mem.read (s.i.toNat + k.toNat) = s.getV k) ∧
      (∀ c, c < s.i.toNat ∨ s.i.toNat + x.toNat < c → t.mem.read c = s.mem.read c) ∧
      UnchangedExcept [.mem, .status] s t) ∧
    (0xFFF < s.i.toNat + x.toNat → ∃ t, exec (.ldMemVx x) s = .next t ∧ HaltedAt .memoryAccess 0x1000 a s t)

/-- R157: `V[k]` from `I + k` for `k` up to `x`, the registers above kept, memory and `I` unchanged; past 0xFFF no register
is loaded and the machine halts. That nothing is stored or loaded, and what a halted machine holds, is the spec's own choice (D7, D8, D30,
log 5). -/
def Obligations.LdVxMemLoadsRegisters : Prop :=
  ∀ (x : RegIdx) (a : Word) (s : State), s.pc = a + 2 →
    decodeWord (packXnn 0xF x 0x65) = .ldVxMem x ∧
    (s.i.toNat + x.toNat ≤ 0xFFF → ∃ t, exec (.ldVxMem x) s = .next t ∧ t.status = .running ∧
      (∀ k : RegIdx, t.getV k = if k.toNat ≤ x.toNat then s.mem.read (s.i.toNat + k.toNat) else s.getV k) ∧
      UnchangedExcept (.status :: allRegisters) s t) ∧
    (0xFFF < s.i.toNat + x.toNat → ∃ t, exec (.ldVxMem x) s = .next t ∧ HaltedAt .memoryAccess 0x1000 a s t)

/-- 20_memory.md R52, R61: two bytes stored by `Fx55` at `I` are seen by a fetch from that address as one word, `V0` its
high byte (the byte order is the spec's inference D1). -/
def Obligations.StoredWordIsFetched : Prop :=
  ∀ (x : RegIdx) (s : State), 1 ≤ x.toNat → s.i.toNat + x.toNat ≤ 0xFFF →
    ∃ t, exec (.ldMemVx x) s = .next t ∧
      (t.setPc s.i).fetch? = some (joinBytes (s.getV 0) (s.getV 1))

/-! ### Keypad and timers (45_keypad_timers.md) -/

/-- R185, R186, R187: the two key skips are complements on a key 0 to 15; above 15 KeyIndex, with the unmasked value, which is
the spec's own choice (D11, D30, log 5). -/
def Obligations.KeySkipsTestOneKey : Prop :=
  ∀ (x : RegIdx) (a : Word) (s : State), s.pc = a + 2 →
    decodeWord (packXnn 0xE x 0x9E) = .skpVx x ∧ decodeWord (packXnn 0xE x 0xA1) = .sknpVx x ∧
    ((s.getV x).toNat ≤ 15 →
      (∃ t, exec (.skpVx x) s = .next t ∧ t.status = .running ∧
        t.pc = (if s.key (s.getV x).toNat = true then a + 4 else a + 2) ∧ UnchangedExcept [.pc, .status] s t) ∧
      (∃ t, exec (.sknpVx x) s = .next t ∧ t.status = .running ∧
        t.pc = (if s.key (s.getV x).toNat = true then a + 2 else a + 4) ∧ UnchangedExcept [.pc, .status] s t)) ∧
    (15 < (s.getV x).toNat →
      (∃ t, exec (.skpVx x) s = .next t ∧ HaltedAt .keyIndex ((s.getV x).setWidth 16) a s t) ∧
      (∃ t, exec (.sknpVx x) s = .next t ∧ HaltedAt .keyIndex ((s.getV x).setWidth 16) a s t))

/-- R189, R190: with no key down PC goes back to `a` and the machine waits; with keys down some pressed key, whichever
the free choice is (log 2), goes to `Vx` and PC stays at `a + 2`. -/
def Obligations.LdVxKWaitsOrStoresPressedKey : Prop :=
  ∀ (x : RegIdx) (a : Word) (s : State), s.pc = a + 2 →
    decodeWord (packXnn 0xF x 0x0A) = .ldVxK x ∧
    ((∀ k, k < 16 → s.key k = false) → ∃ t, exec (.ldVxK x) s = .next t ∧ t.status = .awaitingKey ∧ t.pc = a ∧
      UnchangedExcept [.pc, .status] s t) ∧
    ((∃ k, k < 16 ∧ s.key k = true) → ∃ t, exec (.ldVxK x) s = .next t ∧ t.status = .running ∧
      (∃ k, k < 16 ∧ s.key k = true ∧ (t.getV x).toNat = k) ∧ UnchangedExcept [.v x, .keyDraws, .status] s t)

/-- R189, R191: a whole step at an `Fx0A` with no key down changes nothing but the ticked timers and the run status. -/
def Obligations.WaitingStepOnlyTicks : Prop :=
  ∀ (x : RegIdx) (s : State), s.status ≠ .halted → s.fetch? = some (packXnn 0xF x 0x0A) →
    (∀ k, k < 16 → s.key k = false) →
    ∃ t, step s = .next t ∧ t.status = .awaitingKey ∧ t.dt.toNat = s.dt.toNat - 1 ∧ t.st.toNat = s.st.toNat - 1 ∧
      UnchangedExcept [.dt, .st, .status] s t

/-- R192, R193, R194: the timers are read and written after the tick of the same step, so `Fx07` sees the ticked value
and a written value is whole at the end of the step. -/
def Obligations.TimerAccessFollowsTheTick : Prop :=
  ∀ (x : RegIdx) (s : State),
    decodeWord (packXnn 0xF x 0x07) = .ldVxDt x ∧ decodeWord (packXnn 0xF x 0x15) = .ldDtVx x ∧
    decodeWord (packXnn 0xF x 0x18) = .ldStVx x ∧
    (∃ t, exec (.ldVxDt x) s = .next t ∧ t.status = .running ∧ t.getV x = s.dt ∧ UnchangedExcept [.v x, .status] s t) ∧
    (∃ t, exec (.ldDtVx x) s = .next t ∧ t.status = .running ∧ t.dt = s.getV x ∧ UnchangedExcept [.dt, .status] s t) ∧
    (∃ t, exec (.ldStVx x) s = .next t ∧ t.status = .running ∧ t.st = s.getV x ∧ UnchangedExcept [.st, .status] s t) ∧
    (s.status ≠ .halted →
      (s.fetch? = some (packXnn 0xF x 0x07) → ∃ t, step s = .next t ∧
        (t.getV x).toNat = s.dt.toNat - 1 ∧ t.dt.toNat = s.dt.toNat - 1) ∧
      (s.fetch? = some (packXnn 0xF x 0x15) → ∃ t, step s = .next t ∧ t.dt = s.getV x) ∧
      (s.fetch? = some (packXnn 0xF x 0x18) → ∃ t, step s = .next t ∧ t.st = s.getV x))

/-! ### The step cycle (40_step_cycle.md) -/

/-- R90 to R95: when the two bytes at PC decode to an instruction, a step is that instruction's execute phase from the
state with both timers ticked and PC past the word. Choices of the spec that it rests on: every PC up to 0xFFE fetches,
odd or below 0x200 too (D2, D3, D4 of 10_state.md R27; log 8), the byte at PC is the high one (D1, log 16), and the tick
comes in every step (D10, log 16). -/
def Obligations.StepRunsDecodedInstruction : Prop :=
  ∀ (s : State) (i : Instr), s.status ≠ .halted → s.pc.toNat ≤ 0xFFE →
    decode [s.mem.read s.pc.toNat, s.mem.read (s.pc.toNat + 1)] = .ok (i, []) →
    ∃ u, step s = exec i u ∧ u.pc = s.pc + 2 ∧ u.dt.toNat = s.dt.toNat - 1 ∧ u.st.toNat = s.st.toNat - 1 ∧
      UnchangedExcept [.pc, .dt, .st] s u

/-- R92: a fetch with a byte of the word above 0xFFF halts the machine after the tick, PC unadvanced: the
spec's own choice (D4, D8, D10, log 5). -/
def Obligations.FetchPastMemoryHalts : Prop :=
  ∀ s : State, s.status ≠ .halted → 0xFFE < s.pc.toNat →
    ∃ t, step s = .next t ∧ HaltedAt .pcOutOfBounds s.pc s.pc s.tick t

/-- R99, 60_exceptions.md R227: once Halted, any number of steps change nothing at all: the spec's own
choice (D9, log 5). -/
def Obligations.HaltedIsAbsorbing : Prop :=
  ∀ (s : State) (k : Nat), s.status = .halted → Sys2Proof.core.run k s = .next s

/-- R100: a step from AwaitingKey does exactly what a step from Running does (D28). -/
def Obligations.AwaitingKeyStepsAsRunning : Prop :=
  ∀ s : State, s.status = .awaitingKey → step s = step (s.setStatus .running)

/-- R91: every step from a machine that is not Halted ticks each timer once, clamping at 0, except that `Fx15` and `Fx18`
then write theirs; a step that waits or faults ticks too, which is the spec's own choice (D10). -/
def Obligations.TimersTickOncePerStep : Prop :=
  ∀ s t : State, s.status ≠ .halted → step s = .next t →
    ((∀ op x, s.fetch? = some op → decodeWord op ≠ .ldDtVx x) → t.dt.toNat = s.dt.toNat - 1) ∧
    ((∀ op x, s.fetch? = some op → decodeWord op ≠ .ldStVx x) → t.st.toNat = s.st.toNat - 1)

/-- 10_state.md R26: PC after a step, by the table; `a` when the instruction faults (D8; the `Bnnn` row D6). -/
def Obligations.PcAfterStepFollowsTable : Prop :=
  ∀ (s : State) (op : Word), s.status ≠ .halted → s.fetch? = some op →
    ∃ t, step s = .next t ∧ t.pc = if (s.executeFault? op).isSome then s.pc else s.pcAfter (decodeWord op)

/-- 60_exceptions.md R221, R224 to R226, R228: a step faults exactly under the table's conditions, with the table's cause
and datum, precisely and with no partial effect; any other step leaves the machine not Halted and the fault record
alone. The contents of a halted state are the spec's own choice (D8, D9, D30, log 5). -/
def Obligations.StepFaultsExactlyByTable : Prop :=
  ∀ s : State, s.status ≠ .halted →
    (∀ c info, s.fault? = some (c, info) → ∃ t, step s = .next t ∧ HaltedAt c info s.pc s.tick t) ∧
    (s.fault? = none → ∃ t, step s = .next t ∧ t.status ≠ .halted ∧ t.cause = s.cause ∧ t.faddr = s.faddr)

/-- 00_scope.md R18, 70_reset_and_hazards.md R265: every step completes: no state and no word stops or refuses one. -/
def Obligations.EveryStepAnswersNextState : Prop :=
  ∀ s : State, ∃ t, step s = .next t

/-! ### Who changes and who reads what (10_state.md) -/

/-- R21, R22: a register changes only as a named destination or, VF, as a flag; and a flag is 0 or 1. -/
def Obligations.RegistersChangeOnlyAsDestinationOrFlag : Prop :=
  (∀ (i : Instr) (s t : State) (r : RegIdx), exec i s = .next t → i.namesDestination r = false →
    (r = vf → i.writesFlag = false) → t.getV r = s.getV r) ∧
  (∀ (i : Instr) (s t : State), exec i s = .next t → i.writesFlag = true → t.status = .running →
    t.getV vf = 0 ∨ t.getV vf = 1)

/-- R24, R28, R29, R30, R32, R33, 20_memory.md R58: each other part of the state has only the writers the spec gives it;
no instruction writes the keypad. -/
def Obligations.EachPartHasOnlyItsWriters : Prop :=
  ∀ (i : Instr) (s t : State), exec i s = .next t →
    (t.i ≠ s.i → (∃ nnn, i = .ldINnn nnn) ∨ (∃ x, i = .addIVx x) ∨ (∃ x, i = .ldFVx x)) ∧
    (t.stack ≠ s.stack → (∃ nnn, i = .call nnn) ∨ i = .ret) ∧
    (t.dt ≠ s.dt → ∃ x, i = .ldDtVx x) ∧
    (t.st ≠ s.st → ∃ x, i = .ldStVx x) ∧
    (t.disp ≠ s.disp → i = .cls ∨ ∃ x y n, i = .drwVxVyN x y n) ∧
    (t.mem ≠ s.mem → (∃ x, i = .ldBVx x) ∨ ∃ x, i = .ldMemVx x) ∧
    t.keys = s.keys

/-- 46_host_operations.md R207: a step consumes one random byte when it executes `Cxnn`, and none otherwise: the counter
and the byte that is ready stay (log 1). -/
def Obligations.OnlyRndConsumesRandomBytes : Prop :=
  ∀ (s t : State), s.status ≠ .halted → step s = .next t →
    ((∃ op x nn, s.fetch? = some op ∧ decodeWord op = .rndVxNn x nn) →
      t.randDraws = s.randDraws + 1 ∧ t.randIn = none) ∧
    ((∀ op x nn, s.fetch? = some op → decodeWord op ≠ .rndVxNn x nn) →
      t.randDraws = s.randDraws ∧ t.randIn = s.randIn)

/-- R33: the keypad is read only by `Ex9E`, `ExA1` and `Fx0A`: any other instruction does the same whatever keys are down. -/
def Obligations.KeypadIsReadOnlyByKeyInstructions : Prop :=
  ∀ (i : Instr) (s : State) (ks : Vector Bool 16), i.readsKeys = false →
    exec i (s.setKeys ks) = onNext (fun t => t.setKeys ks) (exec i s)

/-- R30: no instruction reads the sound timer: with another value in `ST` every instruction but `Fx18` does the same and
keeps that value, and `Fx18` does the same. -/
def Obligations.SoundTimerIsNeverRead : Prop :=
  ∀ (i : Instr) (s : State) (b : Byte),
    ((∀ x, i ≠ .ldStVx x) → exec i (s.setSt b) = onNext (fun t => t.setSt b) (exec i s)) ∧
    (∀ x, i = .ldStVx x → exec i (s.setSt b) = exec i s)

/-- R32: no instruction reads a pixel into anything but VF: on another display every instruction but `00E0` and `Dxyn` does
the same and keeps that display, and `Dxyn` leaves every other part the same. -/
def Obligations.DisplayIsReadOnlyForCollision : Prop :=
  ∀ (i : Instr) (s : State) (d : Display),
    ((∀ x y n, i ≠ .drwVxVyN x y n) → i ≠ .cls →
      exec i (s.setDisp d) = onNext (fun t => t.setDisp d) (exec i s)) ∧
    (exec .cls (s.setDisp d) = exec .cls s) ∧
    (∀ x y n t u, i = .drwVxVyN x y n → exec i s = .next t → exec i (s.setDisp d) = .next u →
      UnchangedExcept [.disp, .v vf] t u)

/-! ### Reset and invariants -/

/-- 70_reset_and_hazards.md R250, 10_state.md R39: `create()` gives the reset state whatever the machine was (but for
the model's own draw counters, log 1, log 2), and the value of every piece of state in it; the 80 font bytes are the parameter `FONT_ROM`, whatever its value (log 3). -/
def Obligations.ResetStateIsTheSpecs : Prop :=
  (∀ s : State, UnchangedExcept [.randDraws, .keyDraws] State.reset s.create) ∧
  (∀ a, a < 4096 → State.reset.mem.read a =
    if 0x050 ≤ a ∧ a ≤ 0x09F then Config.fontRom.getD (a - 0x050) 0 else 0) ∧
  Config.fontRom.length = 80 ∧
  (∀ x : RegIdx, State.reset.getV x = 0) ∧ State.reset.i = 0 ∧ State.reset.pc = 0x200 ∧ State.reset.sp = 0 ∧
  State.reset.dt = 0 ∧ State.reset.st = 0 ∧ (∀ y x, Display.pixel State.reset.disp y x = false) ∧
  (∀ k, State.reset.key k = false) ∧ State.reset.status = .running ∧ State.reset.cause = .none ∧ State.reset.faddr = 0

/-- The reset state meets the invariant. -/
def Obligations.ResetMeetsInvariant : Prop := State.reset.Inv ∧ Session.fresh.Inv

/-- 10_state.md R24, R27, R28, R35, 20_memory.md R61, log 7: every step keeps the invariant. -/
def Obligations.StepKeepsInvariant : Prop :=
  ∀ s t : State, s.Inv → step s = .next t → t.Inv

/-- 46_host_operations.md R203, R210: every move of the host, a step among them, keeps the session's invariant. -/
def Obligations.HostMovesKeepInvariant : Prop :=
  ∀ (h h' : Session) (m : HostMove) (r : HostReply), h.Inv → h.move m = some (h', r) → h'.Inv

/-- Log 7: two memories in canonical form whose bytes all read the same are the same data. -/
def Obligations.CanonicalMemoryIsDeterminedByItsBytes : Prop :=
  ∀ m m' : Memory, m.wf → m'.wf → (∀ a, m.read a = m'.read a) → m = m'

/-! ### The host's operations (46_host_operations.md) -/

/-- R201: at most 3584 bytes are copied to 0x200 onward and nothing else changes; more fail. -/
def Obligations.LoadProgramCopiesBytes : Prop :=
  ∀ (s : State) (bytes : List Byte),
    (bytes.length ≤ 3584 → ∃ t, s.loadProgram? bytes = some t ∧
      (∀ k b, bytes[k]? = some b → t.mem.read (0x200 + k) = b) ∧
      (∀ c, c < 0x200 ∨ 0x200 + bytes.length ≤ c → t.mem.read c = s.mem.read c) ∧
      UnchangedExcept [.mem] s t) ∧
    (3584 < bytes.length → s.loadProgram? bytes = none)

/-- R200 to R204, R210: each move of the session is the operation of its name on the session's machine. A program is loaded
at most once after `create()` and never after a step (log 11); a key neither ends loading nor opens it; an operation
that fails leaves the session as it was (R222). A step may carry the byte the random source supplies (R207), which no
session holds after it. -/
def Obligations.ProgramIsLoadedOnceBeforeStepping : Prop :=
  ∀ (h : Session) (bytes : List Byte),
    (h.mayLoad = false → h.move (.loadProgram bytes) = none) ∧
    (3584 < bytes.length → h.mayLoad = true → h.move (.loadProgram bytes) = some (h, .failed)) ∧
    (bytes.length ≤ 3584 → h.mayLoad = true → ∃ t, h.machine.loadProgram? bytes = some t ∧
      h.move (.loadProgram bytes) = some ({ machine := t, mayLoad := false }, .done)) ∧
    (∃ t, step h.machine = .next t ∧ h.move .step = some ({ machine := t, mayLoad := false }, .done)) ∧
    (∀ b, ∃ t, step (h.machine.setRandIn (some b)) = .next t ∧
      h.move (.stepWith b) = some ({ machine := t.setRandIn none, mayLoad := false }, .done)) ∧
    (∀ (index : Nat) (pressed : Bool),
      (index < 16 → ∃ t, h.machine.setKey? index pressed = some t ∧
        h.move (.setKey index pressed) = some ({ machine := t, mayLoad := h.mayLoad }, .done)) ∧
      (16 ≤ index → h.move (.setKey index pressed) = some (h, .failed))) ∧
    h.move .create = some ({ machine := h.machine.create, mayLoad := true }, .done)

/-- R204: the key takes the level and nothing else changes; an index outside 0 to 15 fails. -/
def Obligations.SetKeySetsOneKey : Prop :=
  ∀ (s : State) (index : Nat) (pressed : Bool),
    (index < 16 → ∃ t, s.setKey? index pressed = some t ∧
      (∀ k, t.key k = if k = index then pressed else s.key k) ∧ UnchangedExcept [.keys] s t) ∧
    (16 ≤ index → s.setKey? index pressed = none)

/-- R205: 2048 pixels in row-major order. -/
def Obligations.ReadDisplayIsRowMajor : Prop :=
  ∀ s : State, s.readDisplay.length = 2048 ∧
    ∀ y x, y < 32 → x < 64 → s.readDisplay[y * 64 + x]? = some (Display.pixel s.disp y x)

/-! ### The port-level reading (46_host_operations.md R209) -/

/-- R209 (the spec's own choice D22): one pulse of the input ports. `rst` dominates; `ld_we` writes one byte at an address
from 0x200 up, before the first `step_en`, and otherwise has no meaning (log 11); `step_en` is one step on the keys of the
port, in which the byte of the port `rand` is ready and is what a `Cxnn` gets; no byte is held after it (log 1). With none
of the three nothing happens. -/
def Obligations.PulsePerformsOneOperation : Prop :=
  ∀ (h : Session) (p : PortsIn),
    (p.rst = true → h.pulse p = some { machine := h.machine.create, mayLoad := true }) ∧
    (p.rst = false → p.ldWe = true → h.mayLoad = true → p.stepEn = false → 0x200 ≤ p.ldAddr.toNat →
      ∃ t, h.pulse p = some { machine := t, mayLoad := true } ∧ t.mem.read p.ldAddr.toNat = p.ldData ∧
        (∀ c, c ≠ p.ldAddr.toNat → t.mem.read c = h.machine.mem.read c) ∧ UnchangedExcept [.mem] h.machine t) ∧
    (p.rst = false → p.ldWe = true → (h.mayLoad = false ∨ p.stepEn = true ∨ p.ldAddr.toNat < 0x200) → h.pulse p = none) ∧
    (p.rst = false → p.ldWe = false → p.stepEn = true →
      ∃ u t, (∀ k, u.key k = p.key.getLsbD k) ∧ u.randIn = some p.rand ∧ UnchangedExcept [.keys, .randIn] h.machine u ∧
        step u = .next t ∧ h.pulse p = some { machine := t.setRandIn none, mayLoad := false }) ∧
    (∀ op x nn, p.rst = false → p.ldWe = false → p.stepEn = true → h.machine.status ≠ .halted →
      h.machine.fetch? = some op → decodeWord op = .rndVxNn x nn →
      ∃ t, h.pulse p = some { machine := t, mayLoad := false } ∧ t.getV x = p.rand &&& nn) ∧
    (p.rst = false → p.ldWe = false → p.stepEn = false → h.pulse p = some h)

/-- R209: every pulse of the ports keeps the session's invariant, and the output ports show the state: the pixels in
row-major order, the timers, the sound cue, and the codes of the run status and the cause (D22, D30). -/
def Obligations.PulseKeepsInvariantAndPortsShowState : Prop :=
  (∀ (h h' : Session) (p : PortsIn), h.Inv → h.pulse p = some h' → h'.Inv) ∧
  ∀ s : State,
    (∀ y x, y < 32 → x < 64 → s.portsOut.disp[y * 64 + x]? = some (Display.pixel s.disp y x)) ∧
    s.portsOut.dt = s.dt ∧ s.portsOut.st = s.st ∧ (s.portsOut.soundActive = true ↔ s.st ≠ 0) ∧
    (s.portsOut.status = 0 ↔ s.status = .running) ∧ (s.portsOut.status = 1 ↔ s.status = .awaitingKey) ∧
    (s.portsOut.status = 2 ↔ s.status = .halted) ∧
    (s.portsOut.cause = 0 ↔ s.cause = .none) ∧ (s.portsOut.cause = 1 ↔ s.cause = .pcOutOfBounds) ∧
    (s.portsOut.cause = 2 ↔ s.cause = .stackUnderflow) ∧ (s.portsOut.cause = 3 ↔ s.cause = .stackOverflow) ∧
    (s.portsOut.cause = 4 ↔ s.cause = .memoryAccess) ∧ (s.portsOut.cause = 5 ↔ s.cause = .keyIndex) ∧
    s.portsOut.faddr = s.faddr
end

