-- ==== Sys2Proof/Laws/Decode.lean ====
section
/-! SUPPORT. The fields of a packed word (30_encoding.md R71, R72), and a word out of its two bytes (20_memory.md R52). -/

namespace Sys2Proof

/-! ### Bits of a packed word -/

theorem packNnn_getLsbD (o : Nibble) (a : Addr) (i : Nat) :
    (packNnn o a).getLsbD i = if i < 12 then a.getLsbD i else o.getLsbD (i - 12) :=
  BitVec.getLsbD_append (x := o) (y := a)

theorem packXnn_getLsbD (o : Nibble) (x : RegIdx) (nn : Byte) (i : Nat) :
    (packXnn o x nn).getLsbD i =
      if i < 12 then (if i < 8 then nn.getLsbD i else x.getLsbD (i - 8)) else o.getLsbD (i - 12) :=
  (BitVec.getLsbD_append (x := o) (y := x ++ nn)).trans
    (by simp only [BitVec.getLsbD_append])

theorem packXyn_getLsbD (o : Nibble) (x y : RegIdx) (n : Nibble) (i : Nat) :
    (packXyn o x y n).getLsbD i =
      if i < 12 then (if i < 8 then (if i < 4 then n.getLsbD i else y.getLsbD (i - 4)) else x.getLsbD (i - 8))
      else o.getLsbD (i - 12) :=
  (BitVec.getLsbD_append (x := o) (y := x ++ (y ++ n))).trans
    (congrArg (fun b => if i < 12 then b else o.getLsbD (i - 12))
      ((BitVec.getLsbD_append (x := x) (y := y ++ n)).trans (by simp only [BitVec.getLsbD_append])))

theorem joinBytes_getLsbD (hi lo : Byte) (i : Nat) :
    (joinBytes hi lo).getLsbD i = if i < 8 then lo.getLsbD i else hi.getLsbD (i - 8) :=
  BitVec.getLsbD_append (x := hi) (y := lo)

/-! ### Fields of a packed word -/

@[simp] theorem opcField_packNnn (o : Nibble) (a : Addr) : opcField (packNnn o a) = o := by
  apply BitVec.eq_of_getLsbD_eq; intro i hi; simp [opcField, packNnn_getLsbD, hi]

@[simp] theorem nnnField_packNnn (o : Nibble) (a : Addr) : nnnField (packNnn o a) = a := by
  apply BitVec.eq_of_getLsbD_eq; intro i hi; simp [nnnField, packNnn_getLsbD, hi]

@[simp] theorem opcField_packXnn (o : Nibble) (x : RegIdx) (nn : Byte) : opcField (packXnn o x nn) = o := by
  apply BitVec.eq_of_getLsbD_eq; intro i hi; simp [opcField, packXnn_getLsbD, hi]

@[simp] theorem xField_packXnn (o : Nibble) (x : RegIdx) (nn : Byte) : xField (packXnn o x nn) = x := by
  apply BitVec.eq_of_getLsbD_eq; intro i hi; simp [xField, packXnn_getLsbD, show 8 + i < 12 by omega, hi]

@[simp] theorem nnField_packXnn (o : Nibble) (x : RegIdx) (nn : Byte) : nnField (packXnn o x nn) = nn := by
  apply BitVec.eq_of_getLsbD_eq; intro i hi; simp [nnField, packXnn_getLsbD, show i < 12 by omega, hi]

@[simp] theorem opcField_packXyn (o : Nibble) (x y : RegIdx) (n : Nibble) : opcField (packXyn o x y n) = o := by
  apply BitVec.eq_of_getLsbD_eq; intro i hi; simp [opcField, packXyn_getLsbD, hi]

@[simp] theorem xField_packXyn (o : Nibble) (x y : RegIdx) (n : Nibble) : xField (packXyn o x y n) = x := by
  apply BitVec.eq_of_getLsbD_eq; intro i hi; simp [xField, packXyn_getLsbD, show 8 + i < 12 by omega, hi]

@[simp] theorem yField_packXyn (o : Nibble) (x y : RegIdx) (n : Nibble) : yField (packXyn o x y n) = y := by
  apply BitVec.eq_of_getLsbD_eq; intro i hi; simp [yField, packXyn_getLsbD, show 4 + i < 12 by omega, show 4 + i < 8 by omega, hi]

@[simp] theorem nField_packXyn (o : Nibble) (x y : RegIdx) (n : Nibble) : nField (packXyn o x y n) = n := by
  apply BitVec.eq_of_getLsbD_eq; intro i hi; simp [nField, packXyn_getLsbD, show i < 12 by omega, show i < 8 by omega, hi]

/-! ### Bytes of a word -/

/-- The two bytes of a word, high byte first, give the word back. -/
@[simp] theorem joinBytes_highByte_lowByte (w : Word) : joinBytes (highByte w) (lowByte w) = w := by
  apply BitVec.eq_of_getLsbD_eq
  intro i hi
  rw [joinBytes_getLsbD]
  by_cases h : i < 8
  · simp [lowByte, h]
  · simp [highByte, h, show i - 8 < 8 by omega, show 8 + (i - 8) = i by omega]

@[simp] theorem highByte_joinBytes (hi lo : Byte) : highByte (joinBytes hi lo) = hi := by
  apply BitVec.eq_of_getLsbD_eq; intro i h; simp [highByte, joinBytes_getLsbD, h]

@[simp] theorem lowByte_joinBytes (hi lo : Byte) : lowByte (joinBytes hi lo) = lo := by
  apply BitVec.eq_of_getLsbD_eq; intro i h; simp [lowByte, joinBytes_getLsbD, h]

/-- Decoding two bytes is decoding their word; the bytes after it are left (30_encoding.md R70). -/
@[simp] theorem decode_cons_cons (hi lo : Byte) (rest : List Byte) :
    decode (hi :: lo :: rest) = .ok (decodeWord (joinBytes hi lo), rest) := rfl

end Sys2Proof
end

