-- ==== Sys2Proof/Laws/Display.lean ====
section
/-! SUPPORT. The display: what one flip does to every pixel, and the closed form of the drawing loop of `Dxyn`
(44_display.md R171 to R178). -/

namespace Sys2Proof.Machine

/-- A pixel outside the grid reads as off. -/
theorem Display.pixel_outside (d : Display) (y x : Nat) (h : ¬(y < 32 ∧ x < 64)) : Display.pixel d y x = false := by
  simp only [Display.pixel, Config.displayH, Config.displayW, h, dite_false]

@[simp] theorem Display.pixel_clear (y x : Nat) : Display.pixel Display.clear y x = false := by
  unfold Display.pixel Display.clear
  split <;> simp

/-- A flip changes its own pixel and no other (10_state.md R32). -/
theorem Display.pixel_flip (d : Display) (y x y' x' : Nat) (h : y < 32 ∧ x < 64) :
    Display.pixel (Display.flip d y x) y' x' = (Display.pixel d y' x' ^^ decide (y' = y ∧ x' = x)) := by
  by_cases h' : y' < 32 ∧ x' < 64
  · simp only [Display.pixel, Display.flip, Config.displayH, Config.displayW, h, h', and_self, dite_true]
    by_cases hy : y' = y
    · subst hy
      by_cases hx : x' = x
      · subst hx; simp
      · simp [hx, Ne.symm hx]
    · simp [hy, Ne.symm hy]
  · have hn : ¬(y' = y ∧ x' = x) := by rintro ⟨rfl, rfl⟩; exact h' h
    rw [Display.pixel_outside _ _ _ h', Display.pixel_outside _ _ _ h']
    simp [hn]

/-- Two displays with the same pixels are the same display. -/
theorem Display.ext_pixel (d e : Display) (h : ∀ y x, Display.pixel d y x = Display.pixel e y x) : d = e := by
  apply Vector.ext
  intro y hy
  apply Vector.ext
  intro x hx
  have := h y x
  simpa only [Display.pixel, hy, hx, and_self, dite_true] using this

/-- One row of a sprite over a position: the row's own bits, on screen. -/
def Display.rowBit (x0 yy : Nat) (b : Byte) (w y' x' : Nat) : Bool :=
  decide (y' = yy ∧ yy ≤ 31 ∧ x0 ≤ x' ∧ x' < x0 + w ∧ x' ≤ 63) && b.getLsbD (7 - (x' - x0))

/-- The inner loop of `Dxyn` over its first `w` columns, in closed form (44_display.md R171, R173, R174, R176). -/
theorem Display.drawRow_columns (x0 yy : Nat) (b : Byte) (p : Display × Bool) (hy : yy ≤ 31) (w : Nat) :
    let q := (List.range w).foldl
      (fun q k => if x0 + k ≤ 63 ∧ b.getLsbD (7 - k) = true then Display.drawPixel q yy (x0 + k) else q) p
    (∀ y' x', Display.pixel q.1 y' x' = (Display.pixel p.1 y' x' ^^ Display.rowBit x0 yy b w y' x')) ∧
    (q.2 = true ↔ p.2 = true ∨ ∃ x', Display.rowBit x0 yy b w yy x' = true ∧ Display.pixel p.1 yy x' = true) := by
  induction w with
  | zero =>
    have hz : ∀ y' x', Display.rowBit x0 yy b 0 y' x' = false := by
      intro y' x'
      simp only [Display.rowBit, Bool.and_eq_false_imp, decide_eq_true_eq]
      omega
    simp [hz]
  | succ w ih =>
    simp only [List.range_succ, List.foldl_append, List.foldl_cons, List.foldl_nil] at ih ⊢
    generalize List.foldl _ p (List.range w) = q0 at ih ⊢
    obtain ⟨ihp, ihc⟩ := ih
    have hstep : ∀ y' x', Display.rowBit x0 yy b (w + 1) y' x' =
        (Display.rowBit x0 yy b w y' x' ||
          (decide (y' = yy ∧ x' = x0 + w ∧ x0 + w ≤ 63) && b.getLsbD (7 - w))) := by
      intro y' x'
      by_cases hx : x' = x0 + w
      · subst hx
        have : ¬ x0 + w < x0 + w := by omega
        simp [Display.rowBit, hy]
      · have : (x' < x0 + (w + 1)) ↔ (x' < x0 + w) := by omega
        simp [Display.rowBit, this, hx]
    have hnew : Display.rowBit x0 yy b w yy (x0 + w) = false := by simp [Display.rowBit]
    split
    · next hc =>
      refine ⟨fun y' x' => ?_, ?_⟩
      · rw [Display.drawPixel, Display.pixel_flip _ _ _ _ _ ⟨by omega, by omega⟩, ihp, hstep]
        by_cases h : y' = yy ∧ x' = x0 + w
        · obtain ⟨rfl, rfl⟩ := h
          simp [hnew, hc]
        · have h2 : ¬(y' = yy ∧ x' = x0 + w ∧ x0 + w ≤ 63) := fun h' => h ⟨h'.1, h'.2.1⟩
          simp [h, h2]
      · simp only [Display.drawPixel, Bool.or_eq_true, ihc, ihp, hnew, hstep]
        constructor
        · rintro ((h | ⟨x', h1, h2⟩) | h)
          · exact .inl h
          · exact .inr ⟨x', .inl h1, h2⟩
          · exact .inr ⟨x0 + w, .inr (by simp [hc]), by simpa using h⟩
        · rintro (h | ⟨x', h1 | h1, h2⟩)
          · exact .inl (.inl h)
          · exact .inl (.inr ⟨x', h1, h2⟩)
          · simp only [Bool.and_eq_true, decide_eq_true_eq] at h1
            rw [h1.1.2.1] at h2
            exact .inr (by simp [h2])
    · next hc =>
      have h0 : ∀ y' x', (decide (y' = yy ∧ x' = x0 + w ∧ x0 + w ≤ 63) && b.getLsbD (7 - w)) = false := by
        intro y' x'
        by_cases h1 : x0 + w ≤ 63
        · have : b.getLsbD (7 - w) = false := by
            cases h2 : b.getLsbD (7 - w)
            · rfl
            · exact absurd ⟨h1, h2⟩ hc
          simp [this]
        · simp [h1]
      have hs : ∀ y' x', Display.rowBit x0 yy b (w + 1) y' x' = Display.rowBit x0 yy b w y' x' := by
        intro y' x'; rw [hstep, h0, Bool.or_false]
      simp only [hs]
      exact ⟨ihp, ihc⟩

/-- Everything one sprite row does (44_display.md R173, R174, R176). -/
theorem Display.drawRow_spec (x0 yy : Nat) (b : Byte) (p : Display × Bool) :
    (∀ y' x', Display.pixel (Display.drawRow x0 yy b p).1 y' x' =
      (Display.pixel p.1 y' x' ^^ Display.rowBit x0 yy b 8 y' x')) ∧
    ((Display.drawRow x0 yy b p).2 = true ↔
      p.2 = true ∨ ∃ x', Display.rowBit x0 yy b 8 yy x' = true ∧ Display.pixel p.1 yy x' = true) := by
  unfold Display.drawRow
  split
  · next h => exact Display.drawRow_columns x0 yy b p h 8
  · next h =>
    have hz : ∀ y' x', Display.rowBit x0 yy b 8 y' x' = false := by intro y' x'; simp [Display.rowBit, h]
    simp [hz]

/-- The sprite's 1 bit over a position, on screen (44_display.md R174). -/
def onScreenBit (m : Memory) (base x0 y0 n y' x' : Nat) : Bool :=
  decide (y' ≤ 31 ∧ x' ≤ 63) && spriteBit m base x0 y0 n y' x'

theorem onScreenBit_succ (m : Memory) (base x0 y0 n y' x' : Nat) :
    onScreenBit m base x0 y0 (n + 1) y' x' =
      (onScreenBit m base x0 y0 n y' x' || Display.rowBit x0 (y0 + n) (m.read (base + n)) 8 y' x') := by
  unfold onScreenBit spriteBit Display.rowBit
  by_cases h : y' = y0 + n
  · subst h
    simp
    grind
  · have : y' < y0 + (n + 1) ↔ y' < y0 + n := by omega
    simp [h, this]

/-- Everything the drawing loop of `Dxyn` does: each on-screen pixel under a 1 bit is flipped once, every other pixel is
kept, and the flag says whether some such pixel was on (44_display.md R171 to R178). -/
theorem Display.drawSprite_spec (m : Memory) (base x0 y0 n : Nat) (d : Display) :
    (∀ y' x', Display.pixel (Display.drawSprite m base x0 y0 n d).1 y' x' =
      (Display.pixel d y' x' ^^ onScreenBit m base x0 y0 n y' x')) ∧
    ((Display.drawSprite m base x0 y0 n d).2 = true ↔
      ∃ y' x', onScreenBit m base x0 y0 n y' x' = true ∧ Display.pixel d y' x' = true) := by
  induction n with
  | zero =>
    have hz : ∀ y' x', onScreenBit m base x0 y0 0 y' x' = false := by
      intro y' x'
      simp only [onScreenBit, spriteBit, Bool.and_eq_false_imp, decide_eq_true_eq]
      omega
    simp [Display.drawSprite, hz]
  | succ n ih =>
    obtain ⟨ihp, ihc⟩ := ih
    have hr := Display.drawRow_spec x0 (y0 + n) (m.read (base + n)) (Display.drawSprite m base x0 y0 n d)
    have he : Display.drawSprite m base x0 y0 (n + 1) d =
        Display.drawRow x0 (y0 + n) (m.read (base + n)) (Display.drawSprite m base x0 y0 n d) := by
      simp [Display.drawSprite, List.range_succ]
    have hdis : ∀ y' x', Display.rowBit x0 (y0 + n) (m.read (base + n)) 8 y' x' = true →
        y' = y0 + n ∧ onScreenBit m base x0 y0 n y' x' = false := by
      intro y' x' h
      simp only [Display.rowBit, Bool.and_eq_true, decide_eq_true_eq] at h
      obtain ⟨⟨rfl, -⟩, -⟩ := h
      exact ⟨rfl, by simp [onScreenBit, spriteBit]⟩
    rw [he]
    refine ⟨fun y' x' => ?_, ?_⟩
    · rw [hr.1, ihp, onScreenBit_succ]
      cases h : Display.rowBit x0 (y0 + n) (m.read (base + n)) 8 y' x'
      · simp
      · simp [(hdis y' x' h).2]
    · rw [hr.2, ihc]
      simp only [ihp, onScreenBit_succ, Bool.or_eq_true]
      constructor
      · rintro (⟨y', x', h1, h2⟩ | ⟨x', h1, h2⟩)
        · exact ⟨y', x', .inl h1, h2⟩
        · exact ⟨y0 + n, x', .inr h1, by simpa [(hdis _ _ h1).2] using h2⟩
      · rintro ⟨y', x', h1 | h1, h2⟩
        · exact .inl ⟨y', x', h1, h2⟩
        · obtain ⟨rfl, h3⟩ := hdis y' x' h1
          exact .inr ⟨x', h1, by simp [h3, h2]⟩

end Sys2Proof.Machine
end

