-- ==== Sys2Proof/Laws/Memory.lean ====
section
/-! SUPPORT. Memory: what a read gives after a write, and that every operation keeps the canonical form (log 7). -/

namespace Sys2Proof.Machine

theorem Memory.read_insert (a c : Nat) (b : Byte) (m : Memory) :
    (Memory.insert a b m).read c = if c = a then b else m.read c := by
  induction m with
  | nil => simp [Memory.insert, Memory.read, eq_comm (a := a)]
  | cons p rest ih =>
    obtain ⟨k, d⟩ := p
    unfold Memory.insert
    split
    · simp [Memory.read, eq_comm (a := a)]
    · split
      · next h => subst h; by_cases hc : c = a <;> simp [Memory.read, hc, eq_comm (a := a)]
      · next h =>
        simp only [Memory.read, ih]
        by_cases hk : k = c
        · subst hk; simp [Ne.symm h]
        · simp [hk]

theorem Memory.read_filter (a c : Nat) (m : Memory) :
    Memory.read (m.filter (fun p => p.1 != a)) c = if c = a then Memory.initial c else m.read c := by
  induction m with
  | nil => simp [Memory.read]
  | cons p rest ih =>
    obtain ⟨k, d⟩ := p
    by_cases hk : k = a
    · subst hk
      rw [List.filter_cons_of_neg (by simp), ih]
      by_cases hc : c = k <;> simp [Memory.read, hc, eq_comm (a := k)]
    · rw [List.filter_cons_of_pos (by simpa using hk)]
      by_cases hc : k = c
      · subst hc; simp [hk, Memory.read]
      · simp only [Memory.read, hc, if_false, ih]

/-- A read after a write inside memory (20_memory.md R56): the byte written, or what was there. -/
theorem Memory.read_write (m : Memory) (a c : Nat) (b : Byte) (h : a < Config.memSize) :
    (m.write a b).read c = if c = a then b else m.read c := by
  simp only [Memory.write, h, if_true]
  split
  · next hb =>
    rw [Memory.read_filter]
    by_cases hc : c = a <;> simp [hc, hb]
  · exact Memory.read_insert a c b m

theorem Memory.read_write_ne (m : Memory) (a c : Nat) (b : Byte) (h : c ≠ a) : (m.write a b).read c = m.read c := by
  by_cases ha : a < Config.memSize
  · simp [Memory.read_write m a c b ha, h]
  · simp only [Memory.write, ha, if_false]

/-- Everything `writeBytes` does to the bytes of memory (20_memory.md R54, R56). -/
theorem Memory.read_writeBytes (m : Memory) (a c : Nat) (bs : List Byte) (h : a + bs.length ≤ Config.memSize) :
    (m.writeBytes a bs).read c = if a ≤ c then (bs[c - a]?).getD (m.read c) else m.read c := by
  induction bs generalizing m a with
  | nil => simp [Memory.writeBytes]
  | cons b bs ih =>
    simp only [List.length_cons] at h
    rw [Memory.writeBytes, ih _ _ (by omega), Memory.read_write m a c b (by omega)]
    by_cases hlt : a + 1 ≤ c
    · have he : c - a = (c - (a + 1)) + 1 := by omega
      have hne : c ≠ a := by omega
      simp [hlt, he, hne, show a ≤ c by omega]
    · by_cases hc : c = a
      · subst hc; simp
      · simp [hlt, hc, show ¬ a ≤ c by omega]

/-- Outside the stored bytes memory is as before, wherever the store goes. -/
theorem Memory.read_writeBytes_outside (m : Memory) (a c : Nat) (bs : List Byte) (h : c < a ∨ a + bs.length ≤ c) :
    (m.writeBytes a bs).read c = m.read c := by
  induction bs generalizing m a with
  | nil => rfl
  | cons b bs ih =>
    simp only [List.length_cons] at h
    rw [Memory.writeBytes, ih _ _ (by omega), Memory.read_write_ne m a c b (by omega)]

/-! ### The canonical form -/

theorem Memory.wf_nil : Memory.wf [] := by simp [Memory.wf]

theorem Memory.insert_keys (a : Nat) (b : Byte) (m : Memory) :
    ∀ p ∈ Memory.insert a b m, p = (a, b) ∨ p ∈ m := by
  induction m with
  | nil => simp [Memory.insert]
  | cons q rest ih =>
    obtain ⟨k, c⟩ := q
    unfold Memory.insert
    intro p hp
    split at hp
    · simpa using hp
    · split at hp
      · simp only [List.mem_cons] at hp ⊢; tauto
      · simp only [List.mem_cons] at hp ⊢
        rcases hp with hp | hp
        · exact .inr (.inl hp)
        · rcases ih p hp with h | h <;> tauto

theorem Memory.insert_pairwise (a : Nat) (b : Byte) (m : Memory) (h : m.Pairwise (fun p q => p.1 < q.1)) :
    (Memory.insert a b m).Pairwise (fun p q => p.1 < q.1) := by
  induction m with
  | nil => simp [Memory.insert]
  | cons q rest ih =>
    obtain ⟨k, c⟩ := q
    rw [List.pairwise_cons] at h
    unfold Memory.insert
    split
    · next hlt =>
      refine List.pairwise_cons.2 ⟨fun p hp => ?_, List.pairwise_cons.2 h⟩
      rcases List.mem_cons.1 hp with rfl | hp
      · exact hlt
      · exact lt_trans hlt (h.1 p hp)
    · split
      · next heq => subst heq; exact List.pairwise_cons.2 h
      · refine List.pairwise_cons.2 ⟨fun p hp => ?_, ih h.2⟩
        rcases Memory.insert_keys a b rest p hp with rfl | hp
        · show k < a; omega
        · exact h.1 p hp

/-- A write keeps the canonical form. -/
theorem Memory.wf_write (m : Memory) (a : Nat) (b : Byte) (h : m.wf) : (m.write a b).wf := by
  unfold Memory.write
  split
  · next ha =>
    split
    · exact ⟨h.1.filter _, fun p hp => h.2 p (List.mem_of_mem_filter hp)⟩
    · next hb =>
      refine ⟨Memory.insert_pairwise a b m h.1, fun p hp => ?_⟩
      rcases Memory.insert_keys a b m p hp with rfl | hp
      · exact ⟨ha, hb⟩
      · exact h.2 p hp
  · exact h

/-- Storing bytes keeps the canonical form. -/
theorem Memory.wf_writeBytes (m : Memory) (a : Nat) (bs : List Byte) (h : m.wf) : (m.writeBytes a bs).wf := by
  induction bs generalizing m a with
  | nil => exact h
  | cons b bs ih => exact ih _ _ (Memory.wf_write m a b h)

end Sys2Proof.Machine
end

