-- ==== Sys2Proof/Laws/State.lean ====
section
/-! SUPPORT. What each named update of the state does to each field, one lemma per field per update, true by rfl. -/

namespace Sys2Proof.Machine

variable (s : State)

/-! ### `setMem` -/

@[simp] theorem State.setMem_mem (x : Memory) : (s.setMem x).mem = x := rfl
@[simp] theorem State.setMem_v (x : Memory) : (s.setMem x).v = s.v := rfl
@[simp] theorem State.setMem_i (x : Memory) : (s.setMem x).i = s.i := rfl
@[simp] theorem State.setMem_pc (x : Memory) : (s.setMem x).pc = s.pc := rfl
@[simp] theorem State.setMem_stack (x : Memory) : (s.setMem x).stack = s.stack := rfl
@[simp] theorem State.setMem_dt (x : Memory) : (s.setMem x).dt = s.dt := rfl
@[simp] theorem State.setMem_st (x : Memory) : (s.setMem x).st = s.st := rfl
@[simp] theorem State.setMem_disp (x : Memory) : (s.setMem x).disp = s.disp := rfl
@[simp] theorem State.setMem_keys (x : Memory) : (s.setMem x).keys = s.keys := rfl
@[simp] theorem State.setMem_status (x : Memory) : (s.setMem x).status = s.status := rfl
@[simp] theorem State.setMem_cause (x : Memory) : (s.setMem x).cause = s.cause := rfl
@[simp] theorem State.setMem_faddr (x : Memory) : (s.setMem x).faddr = s.faddr := rfl
@[simp] theorem State.setMem_randDraws (x : Memory) : (s.setMem x).randDraws = s.randDraws := rfl
@[simp] theorem State.setMem_keyDraws (x : Memory) : (s.setMem x).keyDraws = s.keyDraws := rfl
@[simp] theorem State.setMem_randIn (x : Memory) : (s.setMem x).randIn = s.randIn := rfl

/-! ### `setI` -/

@[simp] theorem State.setI_mem (x : Word) : (s.setI x).mem = s.mem := rfl
@[simp] theorem State.setI_v (x : Word) : (s.setI x).v = s.v := rfl
@[simp] theorem State.setI_i (x : Word) : (s.setI x).i = x := rfl
@[simp] theorem State.setI_pc (x : Word) : (s.setI x).pc = s.pc := rfl
@[simp] theorem State.setI_stack (x : Word) : (s.setI x).stack = s.stack := rfl
@[simp] theorem State.setI_dt (x : Word) : (s.setI x).dt = s.dt := rfl
@[simp] theorem State.setI_st (x : Word) : (s.setI x).st = s.st := rfl
@[simp] theorem State.setI_disp (x : Word) : (s.setI x).disp = s.disp := rfl
@[simp] theorem State.setI_keys (x : Word) : (s.setI x).keys = s.keys := rfl
@[simp] theorem State.setI_status (x : Word) : (s.setI x).status = s.status := rfl
@[simp] theorem State.setI_cause (x : Word) : (s.setI x).cause = s.cause := rfl
@[simp] theorem State.setI_faddr (x : Word) : (s.setI x).faddr = s.faddr := rfl
@[simp] theorem State.setI_randDraws (x : Word) : (s.setI x).randDraws = s.randDraws := rfl
@[simp] theorem State.setI_keyDraws (x : Word) : (s.setI x).keyDraws = s.keyDraws := rfl
@[simp] theorem State.setI_randIn (x : Word) : (s.setI x).randIn = s.randIn := rfl

/-! ### `setPc` -/

@[simp] theorem State.setPc_mem (x : Word) : (s.setPc x).mem = s.mem := rfl
@[simp] theorem State.setPc_v (x : Word) : (s.setPc x).v = s.v := rfl
@[simp] theorem State.setPc_i (x : Word) : (s.setPc x).i = s.i := rfl
@[simp] theorem State.setPc_pc (x : Word) : (s.setPc x).pc = x := rfl
@[simp] theorem State.setPc_stack (x : Word) : (s.setPc x).stack = s.stack := rfl
@[simp] theorem State.setPc_dt (x : Word) : (s.setPc x).dt = s.dt := rfl
@[simp] theorem State.setPc_st (x : Word) : (s.setPc x).st = s.st := rfl
@[simp] theorem State.setPc_disp (x : Word) : (s.setPc x).disp = s.disp := rfl
@[simp] theorem State.setPc_keys (x : Word) : (s.setPc x).keys = s.keys := rfl
@[simp] theorem State.setPc_status (x : Word) : (s.setPc x).status = s.status := rfl
@[simp] theorem State.setPc_cause (x : Word) : (s.setPc x).cause = s.cause := rfl
@[simp] theorem State.setPc_faddr (x : Word) : (s.setPc x).faddr = s.faddr := rfl
@[simp] theorem State.setPc_randDraws (x : Word) : (s.setPc x).randDraws = s.randDraws := rfl
@[simp] theorem State.setPc_keyDraws (x : Word) : (s.setPc x).keyDraws = s.keyDraws := rfl
@[simp] theorem State.setPc_randIn (x : Word) : (s.setPc x).randIn = s.randIn := rfl

/-! ### `setStack` -/

@[simp] theorem State.setStack_mem (x : List Word) : (s.setStack x).mem = s.mem := rfl
@[simp] theorem State.setStack_v (x : List Word) : (s.setStack x).v = s.v := rfl
@[simp] theorem State.setStack_i (x : List Word) : (s.setStack x).i = s.i := rfl
@[simp] theorem State.setStack_pc (x : List Word) : (s.setStack x).pc = s.pc := rfl
@[simp] theorem State.setStack_stack (x : List Word) : (s.setStack x).stack = x := rfl
@[simp] theorem State.setStack_dt (x : List Word) : (s.setStack x).dt = s.dt := rfl
@[simp] theorem State.setStack_st (x : List Word) : (s.setStack x).st = s.st := rfl
@[simp] theorem State.setStack_disp (x : List Word) : (s.setStack x).disp = s.disp := rfl
@[simp] theorem State.setStack_keys (x : List Word) : (s.setStack x).keys = s.keys := rfl
@[simp] theorem State.setStack_status (x : List Word) : (s.setStack x).status = s.status := rfl
@[simp] theorem State.setStack_cause (x : List Word) : (s.setStack x).cause = s.cause := rfl
@[simp] theorem State.setStack_faddr (x : List Word) : (s.setStack x).faddr = s.faddr := rfl
@[simp] theorem State.setStack_randDraws (x : List Word) : (s.setStack x).randDraws = s.randDraws := rfl
@[simp] theorem State.setStack_keyDraws (x : List Word) : (s.setStack x).keyDraws = s.keyDraws := rfl
@[simp] theorem State.setStack_randIn (x : List Word) : (s.setStack x).randIn = s.randIn := rfl

/-! ### `setDt` -/

@[simp] theorem State.setDt_mem (x : Byte) : (s.setDt x).mem = s.mem := rfl
@[simp] theorem State.setDt_v (x : Byte) : (s.setDt x).v = s.v := rfl
@[simp] theorem State.setDt_i (x : Byte) : (s.setDt x).i = s.i := rfl
@[simp] theorem State.setDt_pc (x : Byte) : (s.setDt x).pc = s.pc := rfl
@[simp] theorem State.setDt_stack (x : Byte) : (s.setDt x).stack = s.stack := rfl
@[simp] theorem State.setDt_dt (x : Byte) : (s.setDt x).dt = x := rfl
@[simp] theorem State.setDt_st (x : Byte) : (s.setDt x).st = s.st := rfl
@[simp] theorem State.setDt_disp (x : Byte) : (s.setDt x).disp = s.disp := rfl
@[simp] theorem State.setDt_keys (x : Byte) : (s.setDt x).keys = s.keys := rfl
@[simp] theorem State.setDt_status (x : Byte) : (s.setDt x).status = s.status := rfl
@[simp] theorem State.setDt_cause (x : Byte) : (s.setDt x).cause = s.cause := rfl
@[simp] theorem State.setDt_faddr (x : Byte) : (s.setDt x).faddr = s.faddr := rfl
@[simp] theorem State.setDt_randDraws (x : Byte) : (s.setDt x).randDraws = s.randDraws := rfl
@[simp] theorem State.setDt_keyDraws (x : Byte) : (s.setDt x).keyDraws = s.keyDraws := rfl
@[simp] theorem State.setDt_randIn (x : Byte) : (s.setDt x).randIn = s.randIn := rfl

/-! ### `setSt` -/

@[simp] theorem State.setSt_mem (x : Byte) : (s.setSt x).mem = s.mem := rfl
@[simp] theorem State.setSt_v (x : Byte) : (s.setSt x).v = s.v := rfl
@[simp] theorem State.setSt_i (x : Byte) : (s.setSt x).i = s.i := rfl
@[simp] theorem State.setSt_pc (x : Byte) : (s.setSt x).pc = s.pc := rfl
@[simp] theorem State.setSt_stack (x : Byte) : (s.setSt x).stack = s.stack := rfl
@[simp] theorem State.setSt_dt (x : Byte) : (s.setSt x).dt = s.dt := rfl
@[simp] theorem State.setSt_st (x : Byte) : (s.setSt x).st = x := rfl
@[simp] theorem State.setSt_disp (x : Byte) : (s.setSt x).disp = s.disp := rfl
@[simp] theorem State.setSt_keys (x : Byte) : (s.setSt x).keys = s.keys := rfl
@[simp] theorem State.setSt_status (x : Byte) : (s.setSt x).status = s.status := rfl
@[simp] theorem State.setSt_cause (x : Byte) : (s.setSt x).cause = s.cause := rfl
@[simp] theorem State.setSt_faddr (x : Byte) : (s.setSt x).faddr = s.faddr := rfl
@[simp] theorem State.setSt_randDraws (x : Byte) : (s.setSt x).randDraws = s.randDraws := rfl
@[simp] theorem State.setSt_keyDraws (x : Byte) : (s.setSt x).keyDraws = s.keyDraws := rfl
@[simp] theorem State.setSt_randIn (x : Byte) : (s.setSt x).randIn = s.randIn := rfl

/-! ### `setDisp` -/

@[simp] theorem State.setDisp_mem (x : Display) : (s.setDisp x).mem = s.mem := rfl
@[simp] theorem State.setDisp_v (x : Display) : (s.setDisp x).v = s.v := rfl
@[simp] theorem State.setDisp_i (x : Display) : (s.setDisp x).i = s.i := rfl
@[simp] theorem State.setDisp_pc (x : Display) : (s.setDisp x).pc = s.pc := rfl
@[simp] theorem State.setDisp_stack (x : Display) : (s.setDisp x).stack = s.stack := rfl
@[simp] theorem State.setDisp_dt (x : Display) : (s.setDisp x).dt = s.dt := rfl
@[simp] theorem State.setDisp_st (x : Display) : (s.setDisp x).st = s.st := rfl
@[simp] theorem State.setDisp_disp (x : Display) : (s.setDisp x).disp = x := rfl
@[simp] theorem State.setDisp_keys (x : Display) : (s.setDisp x).keys = s.keys := rfl
@[simp] theorem State.setDisp_status (x : Display) : (s.setDisp x).status = s.status := rfl
@[simp] theorem State.setDisp_cause (x : Display) : (s.setDisp x).cause = s.cause := rfl
@[simp] theorem State.setDisp_faddr (x : Display) : (s.setDisp x).faddr = s.faddr := rfl
@[simp] theorem State.setDisp_randDraws (x : Display) : (s.setDisp x).randDraws = s.randDraws := rfl
@[simp] theorem State.setDisp_keyDraws (x : Display) : (s.setDisp x).keyDraws = s.keyDraws := rfl
@[simp] theorem State.setDisp_randIn (x : Display) : (s.setDisp x).randIn = s.randIn := rfl

/-! ### `setKeys` -/

@[simp] theorem State.setKeys_mem (x : Vector Bool Config.numKeys) : (s.setKeys x).mem = s.mem := rfl
@[simp] theorem State.setKeys_v (x : Vector Bool Config.numKeys) : (s.setKeys x).v = s.v := rfl
@[simp] theorem State.setKeys_i (x : Vector Bool Config.numKeys) : (s.setKeys x).i = s.i := rfl
@[simp] theorem State.setKeys_pc (x : Vector Bool Config.numKeys) : (s.setKeys x).pc = s.pc := rfl
@[simp] theorem State.setKeys_stack (x : Vector Bool Config.numKeys) : (s.setKeys x).stack = s.stack := rfl
@[simp] theorem State.setKeys_dt (x : Vector Bool Config.numKeys) : (s.setKeys x).dt = s.dt := rfl
@[simp] theorem State.setKeys_st (x : Vector Bool Config.numKeys) : (s.setKeys x).st = s.st := rfl
@[simp] theorem State.setKeys_disp (x : Vector Bool Config.numKeys) : (s.setKeys x).disp = s.disp := rfl
@[simp] theorem State.setKeys_keys (x : Vector Bool Config.numKeys) : (s.setKeys x).keys = x := rfl
@[simp] theorem State.setKeys_status (x : Vector Bool Config.numKeys) : (s.setKeys x).status = s.status := rfl
@[simp] theorem State.setKeys_cause (x : Vector Bool Config.numKeys) : (s.setKeys x).cause = s.cause := rfl
@[simp] theorem State.setKeys_faddr (x : Vector Bool Config.numKeys) : (s.setKeys x).faddr = s.faddr := rfl
@[simp] theorem State.setKeys_randDraws (x : Vector Bool Config.numKeys) : (s.setKeys x).randDraws = s.randDraws := rfl
@[simp] theorem State.setKeys_keyDraws (x : Vector Bool Config.numKeys) : (s.setKeys x).keyDraws = s.keyDraws := rfl
@[simp] theorem State.setKeys_randIn (x : Vector Bool Config.numKeys) : (s.setKeys x).randIn = s.randIn := rfl

/-! ### `setStatus` -/

@[simp] theorem State.setStatus_mem (x : RunStatus) : (s.setStatus x).mem = s.mem := rfl
@[simp] theorem State.setStatus_v (x : RunStatus) : (s.setStatus x).v = s.v := rfl
@[simp] theorem State.setStatus_i (x : RunStatus) : (s.setStatus x).i = s.i := rfl
@[simp] theorem State.setStatus_pc (x : RunStatus) : (s.setStatus x).pc = s.pc := rfl
@[simp] theorem State.setStatus_stack (x : RunStatus) : (s.setStatus x).stack = s.stack := rfl
@[simp] theorem State.setStatus_dt (x : RunStatus) : (s.setStatus x).dt = s.dt := rfl
@[simp] theorem State.setStatus_st (x : RunStatus) : (s.setStatus x).st = s.st := rfl
@[simp] theorem State.setStatus_disp (x : RunStatus) : (s.setStatus x).disp = s.disp := rfl
@[simp] theorem State.setStatus_keys (x : RunStatus) : (s.setStatus x).keys = s.keys := rfl
@[simp] theorem State.setStatus_status (x : RunStatus) : (s.setStatus x).status = x := rfl
@[simp] theorem State.setStatus_cause (x : RunStatus) : (s.setStatus x).cause = s.cause := rfl
@[simp] theorem State.setStatus_faddr (x : RunStatus) : (s.setStatus x).faddr = s.faddr := rfl
@[simp] theorem State.setStatus_randDraws (x : RunStatus) : (s.setStatus x).randDraws = s.randDraws := rfl
@[simp] theorem State.setStatus_keyDraws (x : RunStatus) : (s.setStatus x).keyDraws = s.keyDraws := rfl
@[simp] theorem State.setStatus_randIn (x : RunStatus) : (s.setStatus x).randIn = s.randIn := rfl

/-! ### `setRandIn` -/

@[simp] theorem State.setRandIn_mem (x : Option Byte) : (s.setRandIn x).mem = s.mem := rfl
@[simp] theorem State.setRandIn_v (x : Option Byte) : (s.setRandIn x).v = s.v := rfl
@[simp] theorem State.setRandIn_i (x : Option Byte) : (s.setRandIn x).i = s.i := rfl
@[simp] theorem State.setRandIn_pc (x : Option Byte) : (s.setRandIn x).pc = s.pc := rfl
@[simp] theorem State.setRandIn_stack (x : Option Byte) : (s.setRandIn x).stack = s.stack := rfl
@[simp] theorem State.setRandIn_dt (x : Option Byte) : (s.setRandIn x).dt = s.dt := rfl
@[simp] theorem State.setRandIn_st (x : Option Byte) : (s.setRandIn x).st = s.st := rfl
@[simp] theorem State.setRandIn_disp (x : Option Byte) : (s.setRandIn x).disp = s.disp := rfl
@[simp] theorem State.setRandIn_keys (x : Option Byte) : (s.setRandIn x).keys = s.keys := rfl
@[simp] theorem State.setRandIn_status (x : Option Byte) : (s.setRandIn x).status = s.status := rfl
@[simp] theorem State.setRandIn_cause (x : Option Byte) : (s.setRandIn x).cause = s.cause := rfl
@[simp] theorem State.setRandIn_faddr (x : Option Byte) : (s.setRandIn x).faddr = s.faddr := rfl
@[simp] theorem State.setRandIn_randDraws (x : Option Byte) : (s.setRandIn x).randDraws = s.randDraws := rfl
@[simp] theorem State.setRandIn_keyDraws (x : Option Byte) : (s.setRandIn x).keyDraws = s.keyDraws := rfl
@[simp] theorem State.setRandIn_randIn (x : Option Byte) : (s.setRandIn x).randIn = x := rfl

/-! ### `usedRand` -/

@[simp] theorem State.usedRand_mem : s.usedRand.mem = s.mem := rfl
@[simp] theorem State.usedRand_v : s.usedRand.v = s.v := rfl
@[simp] theorem State.usedRand_i : s.usedRand.i = s.i := rfl
@[simp] theorem State.usedRand_pc : s.usedRand.pc = s.pc := rfl
@[simp] theorem State.usedRand_stack : s.usedRand.stack = s.stack := rfl
@[simp] theorem State.usedRand_dt : s.usedRand.dt = s.dt := rfl
@[simp] theorem State.usedRand_st : s.usedRand.st = s.st := rfl
@[simp] theorem State.usedRand_disp : s.usedRand.disp = s.disp := rfl
@[simp] theorem State.usedRand_keys : s.usedRand.keys = s.keys := rfl
@[simp] theorem State.usedRand_status : s.usedRand.status = s.status := rfl
@[simp] theorem State.usedRand_cause : s.usedRand.cause = s.cause := rfl
@[simp] theorem State.usedRand_faddr : s.usedRand.faddr = s.faddr := rfl
@[simp] theorem State.usedRand_randDraws : s.usedRand.randDraws = s.randDraws + 1 := rfl
@[simp] theorem State.usedRand_keyDraws : s.usedRand.keyDraws = s.keyDraws := rfl
@[simp] theorem State.usedRand_randIn : s.usedRand.randIn = none := rfl

/-! ### `usedKeyDraw` -/

@[simp] theorem State.usedKeyDraw_mem : s.usedKeyDraw.mem = s.mem := rfl
@[simp] theorem State.usedKeyDraw_v : s.usedKeyDraw.v = s.v := rfl
@[simp] theorem State.usedKeyDraw_i : s.usedKeyDraw.i = s.i := rfl
@[simp] theorem State.usedKeyDraw_pc : s.usedKeyDraw.pc = s.pc := rfl
@[simp] theorem State.usedKeyDraw_stack : s.usedKeyDraw.stack = s.stack := rfl
@[simp] theorem State.usedKeyDraw_dt : s.usedKeyDraw.dt = s.dt := rfl
@[simp] theorem State.usedKeyDraw_st : s.usedKeyDraw.st = s.st := rfl
@[simp] theorem State.usedKeyDraw_disp : s.usedKeyDraw.disp = s.disp := rfl
@[simp] theorem State.usedKeyDraw_keys : s.usedKeyDraw.keys = s.keys := rfl
@[simp] theorem State.usedKeyDraw_status : s.usedKeyDraw.status = s.status := rfl
@[simp] theorem State.usedKeyDraw_cause : s.usedKeyDraw.cause = s.cause := rfl
@[simp] theorem State.usedKeyDraw_faddr : s.usedKeyDraw.faddr = s.faddr := rfl
@[simp] theorem State.usedKeyDraw_randDraws : s.usedKeyDraw.randDraws = s.randDraws := rfl
@[simp] theorem State.usedKeyDraw_keyDraws : s.usedKeyDraw.keyDraws = s.keyDraws + 1 := rfl
@[simp] theorem State.usedKeyDraw_randIn : s.usedKeyDraw.randIn = s.randIn := rfl

/-! ### `setV` -/

@[simp] theorem State.setV_mem (x : RegIdx) (b : Byte) : (s.setV x b).mem = s.mem := rfl
@[simp] theorem State.setV_v (x : RegIdx) (b : Byte) : (s.setV x b).v = s.v.set x.toNat b x.isLt := rfl
@[simp] theorem State.setV_i (x : RegIdx) (b : Byte) : (s.setV x b).i = s.i := rfl
@[simp] theorem State.setV_pc (x : RegIdx) (b : Byte) : (s.setV x b).pc = s.pc := rfl
@[simp] theorem State.setV_stack (x : RegIdx) (b : Byte) : (s.setV x b).stack = s.stack := rfl
@[simp] theorem State.setV_dt (x : RegIdx) (b : Byte) : (s.setV x b).dt = s.dt := rfl
@[simp] theorem State.setV_st (x : RegIdx) (b : Byte) : (s.setV x b).st = s.st := rfl
@[simp] theorem State.setV_disp (x : RegIdx) (b : Byte) : (s.setV x b).disp = s.disp := rfl
@[simp] theorem State.setV_keys (x : RegIdx) (b : Byte) : (s.setV x b).keys = s.keys := rfl
@[simp] theorem State.setV_status (x : RegIdx) (b : Byte) : (s.setV x b).status = s.status := rfl
@[simp] theorem State.setV_cause (x : RegIdx) (b : Byte) : (s.setV x b).cause = s.cause := rfl
@[simp] theorem State.setV_faddr (x : RegIdx) (b : Byte) : (s.setV x b).faddr = s.faddr := rfl
@[simp] theorem State.setV_randDraws (x : RegIdx) (b : Byte) : (s.setV x b).randDraws = s.randDraws := rfl
@[simp] theorem State.setV_keyDraws (x : RegIdx) (b : Byte) : (s.setV x b).keyDraws = s.keyDraws := rfl
@[simp] theorem State.setV_randIn (x : RegIdx) (b : Byte) : (s.setV x b).randIn = s.randIn := rfl

/-! ### `tick` -/

@[simp] theorem State.tick_mem : s.tick.mem = s.mem := rfl
@[simp] theorem State.tick_v : s.tick.v = s.v := rfl
@[simp] theorem State.tick_i : s.tick.i = s.i := rfl
@[simp] theorem State.tick_pc : s.tick.pc = s.pc := rfl
@[simp] theorem State.tick_stack : s.tick.stack = s.stack := rfl
@[simp] theorem State.tick_dt : s.tick.dt = tickTimer s.dt := rfl
@[simp] theorem State.tick_st : s.tick.st = tickTimer s.st := rfl
@[simp] theorem State.tick_disp : s.tick.disp = s.disp := rfl
@[simp] theorem State.tick_keys : s.tick.keys = s.keys := rfl
@[simp] theorem State.tick_status : s.tick.status = s.status := rfl
@[simp] theorem State.tick_cause : s.tick.cause = s.cause := rfl
@[simp] theorem State.tick_faddr : s.tick.faddr = s.faddr := rfl
@[simp] theorem State.tick_randDraws : s.tick.randDraws = s.randDraws := rfl
@[simp] theorem State.tick_keyDraws : s.tick.keyDraws = s.keyDraws := rfl
@[simp] theorem State.tick_randIn : s.tick.randIn = s.randIn := rfl

/-- The ticks of one step (00_scope.md R7). -/
@[simp] theorem State.ticks_one : s.ticks 1 = s.tick := rfl

/-! ### `advance` -/

@[simp] theorem State.advance_mem : s.advance.mem = s.mem := rfl
@[simp] theorem State.advance_v : s.advance.v = s.v := rfl
@[simp] theorem State.advance_i : s.advance.i = s.i := rfl
@[simp] theorem State.advance_pc : s.advance.pc = s.pc + 2 := rfl
@[simp] theorem State.advance_stack : s.advance.stack = s.stack := rfl
@[simp] theorem State.advance_dt : s.advance.dt = s.dt := rfl
@[simp] theorem State.advance_st : s.advance.st = s.st := rfl
@[simp] theorem State.advance_disp : s.advance.disp = s.disp := rfl
@[simp] theorem State.advance_keys : s.advance.keys = s.keys := rfl
@[simp] theorem State.advance_status : s.advance.status = s.status := rfl
@[simp] theorem State.advance_cause : s.advance.cause = s.cause := rfl
@[simp] theorem State.advance_faddr : s.advance.faddr = s.faddr := rfl
@[simp] theorem State.advance_randDraws : s.advance.randDraws = s.randDraws := rfl
@[simp] theorem State.advance_keyDraws : s.advance.keyDraws = s.keyDraws := rfl
@[simp] theorem State.advance_randIn : s.advance.randIn = s.randIn := rfl

/-! ### `takeFault` -/

@[simp] theorem State.takeFault_mem (c : Cause) (info a : Word) : (s.takeFault c info a).mem = s.mem := rfl
@[simp] theorem State.takeFault_v (c : Cause) (info a : Word) : (s.takeFault c info a).v = s.v := rfl
@[simp] theorem State.takeFault_i (c : Cause) (info a : Word) : (s.takeFault c info a).i = s.i := rfl
@[simp] theorem State.takeFault_pc (c : Cause) (info a : Word) : (s.takeFault c info a).pc = a := rfl
@[simp] theorem State.takeFault_stack (c : Cause) (info a : Word) : (s.takeFault c info a).stack = s.stack := rfl
@[simp] theorem State.takeFault_dt (c : Cause) (info a : Word) : (s.takeFault c info a).dt = s.dt := rfl
@[simp] theorem State.takeFault_st (c : Cause) (info a : Word) : (s.takeFault c info a).st = s.st := rfl
@[simp] theorem State.takeFault_disp (c : Cause) (info a : Word) : (s.takeFault c info a).disp = s.disp := rfl
@[simp] theorem State.takeFault_keys (c : Cause) (info a : Word) : (s.takeFault c info a).keys = s.keys := rfl
@[simp] theorem State.takeFault_status (c : Cause) (info a : Word) : (s.takeFault c info a).status = .halted := rfl
@[simp] theorem State.takeFault_cause (c : Cause) (info a : Word) : (s.takeFault c info a).cause = c := rfl
@[simp] theorem State.takeFault_faddr (c : Cause) (info a : Word) : (s.takeFault c info a).faddr = info := rfl
@[simp] theorem State.takeFault_randDraws (c : Cause) (info a : Word) : (s.takeFault c info a).randDraws = s.randDraws := rfl
@[simp] theorem State.takeFault_keyDraws (c : Cause) (info a : Word) : (s.takeFault c info a).keyDraws = s.keyDraws := rfl
@[simp] theorem State.takeFault_randIn (c : Cause) (info a : Word) : (s.takeFault c info a).randIn = s.randIn := rfl

/-! ### `setResultAndFlag` -/

@[simp] theorem State.setResultAndFlag_mem (x : RegIdx) (b : Byte) (f : Bool) : (s.setResultAndFlag x b f).mem = s.mem := rfl
@[simp] theorem State.setResultAndFlag_v (x : RegIdx) (b : Byte) (f : Bool) : (s.setResultAndFlag x b f).v = ((s.setV x b).setV vf (flagByte f)).v := rfl
@[simp] theorem State.setResultAndFlag_i (x : RegIdx) (b : Byte) (f : Bool) : (s.setResultAndFlag x b f).i = s.i := rfl
@[simp] theorem State.setResultAndFlag_pc (x : RegIdx) (b : Byte) (f : Bool) : (s.setResultAndFlag x b f).pc = s.pc := rfl
@[simp] theorem State.setResultAndFlag_stack (x : RegIdx) (b : Byte) (f : Bool) : (s.setResultAndFlag x b f).stack = s.stack := rfl
@[simp] theorem State.setResultAndFlag_dt (x : RegIdx) (b : Byte) (f : Bool) : (s.setResultAndFlag x b f).dt = s.dt := rfl
@[simp] theorem State.setResultAndFlag_st (x : RegIdx) (b : Byte) (f : Bool) : (s.setResultAndFlag x b f).st = s.st := rfl
@[simp] theorem State.setResultAndFlag_disp (x : RegIdx) (b : Byte) (f : Bool) : (s.setResultAndFlag x b f).disp = s.disp := rfl
@[simp] theorem State.setResultAndFlag_keys (x : RegIdx) (b : Byte) (f : Bool) : (s.setResultAndFlag x b f).keys = s.keys := rfl
@[simp] theorem State.setResultAndFlag_status (x : RegIdx) (b : Byte) (f : Bool) : (s.setResultAndFlag x b f).status = s.status := rfl
@[simp] theorem State.setResultAndFlag_cause (x : RegIdx) (b : Byte) (f : Bool) : (s.setResultAndFlag x b f).cause = s.cause := rfl
@[simp] theorem State.setResultAndFlag_faddr (x : RegIdx) (b : Byte) (f : Bool) : (s.setResultAndFlag x b f).faddr = s.faddr := rfl
@[simp] theorem State.setResultAndFlag_randDraws (x : RegIdx) (b : Byte) (f : Bool) : (s.setResultAndFlag x b f).randDraws = s.randDraws := rfl
@[simp] theorem State.setResultAndFlag_keyDraws (x : RegIdx) (b : Byte) (f : Bool) : (s.setResultAndFlag x b f).keyDraws = s.keyDraws := rfl
@[simp] theorem State.setResultAndFlag_randIn (x : RegIdx) (b : Byte) (f : Bool) : (s.setResultAndFlag x b f).randIn = s.randIn := rfl

/-! ### `skipIf` and `loadV` -/

@[simp] theorem State.skipIf_mem (c : Bool) : (s.skipIf c).mem = s.mem := by cases c <;> rfl
@[simp] theorem State.skipIf_v (c : Bool) : (s.skipIf c).v = s.v := by cases c <;> rfl
@[simp] theorem State.skipIf_i (c : Bool) : (s.skipIf c).i = s.i := by cases c <;> rfl
@[simp] theorem State.skipIf_pc (c : Bool) : (s.skipIf c).pc = if c then s.pc + 2 else s.pc := by
  cases c <;> rfl
@[simp] theorem State.skipIf_stack (c : Bool) : (s.skipIf c).stack = s.stack := by cases c <;> rfl
@[simp] theorem State.skipIf_dt (c : Bool) : (s.skipIf c).dt = s.dt := by cases c <;> rfl
@[simp] theorem State.skipIf_st (c : Bool) : (s.skipIf c).st = s.st := by cases c <;> rfl
@[simp] theorem State.skipIf_disp (c : Bool) : (s.skipIf c).disp = s.disp := by cases c <;> rfl
@[simp] theorem State.skipIf_keys (c : Bool) : (s.skipIf c).keys = s.keys := by cases c <;> rfl
@[simp] theorem State.skipIf_status (c : Bool) : (s.skipIf c).status = s.status := by cases c <;> rfl
@[simp] theorem State.skipIf_cause (c : Bool) : (s.skipIf c).cause = s.cause := by cases c <;> rfl
@[simp] theorem State.skipIf_faddr (c : Bool) : (s.skipIf c).faddr = s.faddr := by cases c <;> rfl
@[simp] theorem State.skipIf_randDraws (c : Bool) : (s.skipIf c).randDraws = s.randDraws := by cases c <;> rfl
@[simp] theorem State.skipIf_keyDraws (c : Bool) : (s.skipIf c).keyDraws = s.keyDraws := by cases c <;> rfl
@[simp] theorem State.skipIf_randIn (c : Bool) : (s.skipIf c).randIn = s.randIn := by cases c <;> rfl
@[simp] theorem State.loadV_mem (k : Nat) : (s.loadV k).mem = s.mem := by
  induction k with
  | zero => rfl
  | succ k ih => exact ih
@[simp] theorem State.loadV_i (k : Nat) : (s.loadV k).i = s.i := by
  induction k with
  | zero => rfl
  | succ k ih => exact ih
@[simp] theorem State.loadV_pc (k : Nat) : (s.loadV k).pc = s.pc := by
  induction k with
  | zero => rfl
  | succ k ih => exact ih
@[simp] theorem State.loadV_stack (k : Nat) : (s.loadV k).stack = s.stack := by
  induction k with
  | zero => rfl
  | succ k ih => exact ih
@[simp] theorem State.loadV_dt (k : Nat) : (s.loadV k).dt = s.dt := by
  induction k with
  | zero => rfl
  | succ k ih => exact ih
@[simp] theorem State.loadV_st (k : Nat) : (s.loadV k).st = s.st := by
  induction k with
  | zero => rfl
  | succ k ih => exact ih
@[simp] theorem State.loadV_disp (k : Nat) : (s.loadV k).disp = s.disp := by
  induction k with
  | zero => rfl
  | succ k ih => exact ih
@[simp] theorem State.loadV_keys (k : Nat) : (s.loadV k).keys = s.keys := by
  induction k with
  | zero => rfl
  | succ k ih => exact ih
@[simp] theorem State.loadV_status (k : Nat) : (s.loadV k).status = s.status := by
  induction k with
  | zero => rfl
  | succ k ih => exact ih
@[simp] theorem State.loadV_cause (k : Nat) : (s.loadV k).cause = s.cause := by
  induction k with
  | zero => rfl
  | succ k ih => exact ih
@[simp] theorem State.loadV_faddr (k : Nat) : (s.loadV k).faddr = s.faddr := by
  induction k with
  | zero => rfl
  | succ k ih => exact ih
@[simp] theorem State.loadV_randDraws (k : Nat) : (s.loadV k).randDraws = s.randDraws := by
  induction k with
  | zero => rfl
  | succ k ih => exact ih
@[simp] theorem State.loadV_keyDraws (k : Nat) : (s.loadV k).keyDraws = s.keyDraws := by
  induction k with
  | zero => rfl
  | succ k ih => exact ih
@[simp] theorem State.loadV_randIn (k : Nat) : (s.loadV k).randIn = s.randIn := by
  induction k with
  | zero => rfl
  | succ k ih => exact ih

/-! ### Registers through the updates -/

/-- Reading a register after writing one (10_state.md R21). -/
theorem State.getV_setV (x y : RegIdx) (b : Byte) : (s.setV x b).getV y = if y = x then b else s.getV y := by
  simp only [State.setV, State.getV, Vector.getElem_set, BitVec.toNat_inj, eq_comm (a := x)]

@[simp] theorem State.getV_setV_same (x : RegIdx) (b : Byte) : (s.setV x b).getV x = b := by
  simp [State.getV_setV]

@[simp] theorem State.getV_setV_ne (x y : RegIdx) (b : Byte) (h : y ≠ x) : (s.setV x b).getV y = s.getV y := by
  simp [State.getV_setV, h]

@[simp] theorem State.getV_setMem (x : Memory) (y : RegIdx) : (s.setMem x).getV y = s.getV y := rfl

@[simp] theorem State.getV_setI (x : Word) (y : RegIdx) : (s.setI x).getV y = s.getV y := rfl

@[simp] theorem State.getV_setPc (x : Word) (y : RegIdx) : (s.setPc x).getV y = s.getV y := rfl

@[simp] theorem State.getV_setStack (x : List Word) (y : RegIdx) : (s.setStack x).getV y = s.getV y := rfl

@[simp] theorem State.getV_setDt (x : Byte) (y : RegIdx) : (s.setDt x).getV y = s.getV y := rfl

@[simp] theorem State.getV_setSt (x : Byte) (y : RegIdx) : (s.setSt x).getV y = s.getV y := rfl

@[simp] theorem State.getV_setDisp (x : Display) (y : RegIdx) : (s.setDisp x).getV y = s.getV y := rfl

@[simp] theorem State.getV_setKeys (x : Vector Bool Config.numKeys) (y : RegIdx) : (s.setKeys x).getV y = s.getV y := rfl

@[simp] theorem State.getV_setStatus (x : RunStatus) (y : RegIdx) : (s.setStatus x).getV y = s.getV y := rfl

@[simp] theorem State.getV_setRandIn (x : Option Byte) (y : RegIdx) : (s.setRandIn x).getV y = s.getV y := rfl

@[simp] theorem State.getV_usedRand (y : RegIdx) : s.usedRand.getV y = s.getV y := rfl

@[simp] theorem State.getV_usedKeyDraw (y : RegIdx) : s.usedKeyDraw.getV y = s.getV y := rfl

@[simp] theorem State.getV_tick (y : RegIdx) : s.tick.getV y = s.getV y := rfl

@[simp] theorem State.getV_advance (y : RegIdx) : s.advance.getV y = s.getV y := rfl

@[simp] theorem State.getV_takeFault (c : Cause) (info a : Word) (y : RegIdx) :
    (s.takeFault c info a).getV y = s.getV y := rfl

@[simp] theorem State.getV_skipIf (c : Bool) (y : RegIdx) : (s.skipIf c).getV y = s.getV y := by cases c <;> rfl

/-- The flag is written last, so it wins when the destination is VF (10_state.md R23). -/
theorem State.getV_setResultAndFlag (x y : RegIdx) (b : Byte) (f : Bool) :
    (s.setResultAndFlag x b f).getV y = if y = vf then flagByte f else if y = x then b else s.getV y := by
  simp only [State.setResultAndFlag, State.getV_setV]

/-- Everything `loadV` does to the registers: `V[k]` for `k < n` from `MEM[I + k]`, the others kept (43_index_memory.md R157). -/
theorem State.getV_loadV (n : Nat) (hn : n ≤ 16) (y : RegIdx) :
    (s.loadV n).getV y = if y.toNat < n then s.mem.read (s.i.toNat + y.toNat) else s.getV y := by
  induction n with
  | zero => rfl
  | succ k ih =>
    have hk : (BitVec.ofNat 4 k).toNat = k := by simp; omega
    have hy : y = BitVec.ofNat 4 k ↔ y.toNat = k := by rw [← BitVec.toNat_inj, hk]
    simp only [State.loadV, State.getV_setV, ih (by omega), hy]
    by_cases h : y.toNat = k
    · simp [h]
    · simp only [h, if_false]
      congr 1
      simp only [eq_iff_iff]
      omega

/-- The byte for register `k` in the range stored by `Fx55` (43_index_memory.md R156). -/
theorem State.firstV_getElem? (n k : Nat) (hk : k < n) (h16 : k < 16) :
    (s.firstV n)[k]? = some (s.getV (BitVec.ofNat 4 k)) := by
  have hm : k % 16 = k := Nat.mod_eq_of_lt h16
  simp [State.firstV, State.getV, hk, hm, h16]

@[simp] theorem State.firstV_length (n : Nat) : (s.firstV n).length = min n 16 := by
  simp [State.firstV]

end Sys2Proof.Machine
end

