-- ==== Sys2Proof/Laws/Step.lean ====
section
/-! SUPPORT. What each shared operation of the step cycle can do: the range check, the key test, the key choice, the
fetch, and the three ways a step goes (40_step_cycle.md R90, R92, R99). -/

namespace Sys2Proof.Machine

/-- The whole range of the access is inside memory (20_memory.md R55). -/
theorem State.inMemory_iff (s : State) (len : Nat) : s.inMemory len = true ↔ len = 0 ∨ s.i.toNat + len ≤ 4096 := by
  simp [State.inMemory]

theorem withRange_inside (s : State) (len : Nat) (k : State → Host.Outcome State Fault Refusal)
    (h : len = 0 ∨ s.i.toNat + len ≤ 4096) : withRange len k s = k s := by
  rw [withRange, if_pos ((s.inMemory_iff len).2 h)]

theorem withRange_outside (s : State) (len : Nat) (k : State → Host.Outcome State Fault Refusal)
    (h : len ≠ 0) (h' : 4096 < s.i.toNat + len) :
    withRange len k s = .next (s.takeFault .memoryAccess 0x1000 s.fetchedFrom) := by
  rw [withRange, if_neg (fun hc => by rcases (s.inMemory_iff len).1 hc with h0 | h0 <;> omega)]
  rfl

theorem withKey_legal (s : State) (x : RegIdx) (k : Bool → State → Host.Outcome State Fault Refusal)
    (h : (s.getV x).toNat ≤ 15) : withKey x k s = k (s.key (s.getV x).toNat) s := by
  rw [withKey, if_pos h]

theorem withKey_illegal (s : State) (x : RegIdx) (k : Bool → State → Host.Outcome State Fault Refusal)
    (h : 15 < (s.getV x).toNat) :
    withKey x k s = .next (s.takeFault .keyIndex ((s.getV x).setWidth 16) s.fetchedFrom) := by
  rw [withKey, if_neg (by omega)]
  rfl

/-- `PressedSet` (00_scope.md R14). -/
theorem State.mem_pressed (s : State) (k : Nat) : k ∈ s.pressed ↔ k < 16 ∧ s.key k = true := by
  simp [State.pressed]

theorem State.chooseKey?_none (s : State) : s.chooseKey? = none ↔ s.pressed = [] := by
  unfold State.chooseKey?
  rw [List.getElem?_eq_none_iff]
  constructor
  · intro h
    by_contra hne
    have := Nat.mod_lt (Config.keyChoice s.keyDraws) (List.length_pos_iff.2 hne)
    omega
  · intro h; simp [h]

/-- Whatever the free choice is, it is a pressed key (45_keypad_timers.md R190). -/
theorem State.chooseKey?_mem (s : State) (k : Nat) (h : s.chooseKey? = some k) : k ∈ s.pressed :=
  List.mem_of_getElem? h

theorem State.key_setV (s : State) (x : RegIdx) (b : Byte) (k : Nat) : (s.setV x b).key k = s.key k := rfl

/-- The fetch (40_step_cycle.md R92). -/
theorem State.fetch?_some (s : State) (h : s.pc.toNat ≤ 0xFFE) :
    s.fetch? = some (joinBytes (s.mem.read s.pc.toNat) (s.mem.read (s.pc.toNat + 1))) := by
  rw [State.fetch?, if_pos h]

theorem State.fetch?_none (s : State) : s.fetch? = none ↔ 0xFFE < s.pc.toNat := by
  unfold State.fetch?
  split <;> simp <;> omega

/-- `Rand()` with a byte ready, and without one (46_host_operations.md R207; log 1). -/
theorem State.rand_some (s : State) (b : Byte) (h : s.randIn = some b) : s.rand = b := by simp [State.rand, h]

theorem State.rand_none (s : State) (h : s.randIn = none) : s.rand = Config.randomByte s.randDraws := by
  simp [State.rand, h]

@[simp] theorem State.fetch?_setRandIn (s : State) (x : Option Byte) : (s.setRandIn x).fetch? = s.fetch? := rfl

@[simp] theorem State.fetch?_tick (s : State) : s.tick.fetch? = s.fetch? := rfl

theorem step_halted (s : State) (h : s.status = .halted) : step s = .next s := by
  simp only [step, h]

/-- A step that fetches a word executes it (R90, R93, R94, R95). -/
theorem step_exec (s : State) (op : Word) (h : s.status ≠ .halted) (hf : s.fetch? = some op) :
    step s = exec (decodeWord op) s.tick.advance := by
  unfold step
  cases hs : s.status <;> simp_all

/-- A step whose fetch fails takes the PcOutOfBounds fault (R92). -/
theorem step_fetchFault (s : State) (h : s.status ≠ .halted) (hf : s.fetch? = none) :
    step s = .next (s.tick.takeFault .pcOutOfBounds s.pc s.pc) := by
  unfold step
  cases hs : s.status <;> simp_all

/-- In the execute phase of a step the fetched address is the old `PC` (R93; log 13). -/
@[simp] theorem State.fetchedFrom_advance (s : State) : s.advance.fetchedFrom = s.pc := by
  simp [State.fetchedFrom, State.advance]

/-- A frame, part by part. -/
theorem unchangedExcept_refl (ps : List Part) (s : State) : UnchangedExcept ps s s := by
  intro p _
  cases p <;> simp [Part.Same]

end Sys2Proof.Machine
end

