-- ==== Sys2Proof/Laws/Exec.lean ====
section
/-! SUPPORT. How an execute phase ends (40_step_cycle.md R97, R101): it completes, it faults before any write, or it holds. -/

namespace Sys2Proof.Machine

/-- What a completed execute phase never touches: the keypad and the fault record (10_state.md R31, R33, R35); and it makes
no random byte ready (R38; log 1). -/
structure KeepsRecord (s u : State) : Prop where
  keys : u.keys = s.keys
  cause : u.cause = s.cause
  faddr : u.faddr = s.faddr
  noByte : s.randIn = none → u.randIn = none

theorem withRange_ends (len : Nat) (k : State → Host.Outcome State Fault Refusal) (s : State)
    (hk : ∃ u, k s = complete u ∧ KeepsRecord s u) :
    (∃ u, withRange len k s = complete u ∧ KeepsRecord s u) ∨ ∃ c info, withRange len k s = raiseFault c info s := by
  unfold withRange
  split
  · exact .inl hk
  · exact .inr ⟨_, _, rfl⟩

theorem withKey_ends (x : RegIdx) (k : Bool → State → Host.Outcome State Fault Refusal) (s : State)
    (hk : ∀ b, ∃ u, k b s = complete u ∧ KeepsRecord s u) :
    (∃ u, withKey x k s = complete u ∧ KeepsRecord s u) ∨ ∃ c info, withKey x k s = raiseFault c info s := by
  unfold withKey
  split
  · exact .inl (hk _)
  · exact .inr ⟨_, _, rfl⟩

/-- The three ends of an execute phase. -/
theorem exec_ends (i : Instr) (s : State) :
    (∃ u, exec i s = complete u ∧ KeepsRecord s u) ∨ (∃ c info, exec i s = raiseFault c info s) ∨ exec i s = hold s := by
  cases i with
  | ret =>
    cases h : s.stack with
    | nil => exact .inr (.inl ⟨.stackUnderflow, s.fetchedFrom, by simp only [exec, execRet, h]⟩)
    | cons r rest => exact .inl ⟨(s.setStack rest).setPc r, by simp only [exec, execRet, h], ⟨rfl, rfl, rfl, id⟩⟩
  | call nnn =>
    by_cases h : s.sp < Config.stackCapacity
    · exact .inl ⟨(s.setStack (s.pc :: s.stack)).setPc (zextAddr nnn), by simp only [exec, execCall, h, if_true], ⟨rfl, rfl, rfl, id⟩⟩
    · exact .inr (.inl ⟨.stackOverflow, s.fetchedFrom, by simp only [exec, execCall, h, if_false]⟩)
  | ldVxK x =>
    cases h : s.chooseKey? with
    | none => exact .inr (.inr (by simp only [exec, execLdVxK, h]))
    | some k => exact .inl ⟨(s.setV x (BitVec.ofNat 8 k)).usedKeyDraw, by simp only [exec, execLdVxK, h], ⟨rfl, rfl, rfl, id⟩⟩
  | seVxNn x nn => exact .inl ⟨_, rfl, ⟨by simp, by simp, by simp, by simp⟩⟩
  | sneVxNn x nn => exact .inl ⟨_, rfl, ⟨by simp, by simp, by simp, by simp⟩⟩
  | seVxVy x y => exact .inl ⟨_, rfl, ⟨by simp, by simp, by simp, by simp⟩⟩
  | sneVxVy x y => exact .inl ⟨_, rfl, ⟨by simp, by simp, by simp, by simp⟩⟩
  | skpVx x => exact (withKey_ends x skipWhenDown s fun b => ⟨_, rfl, ⟨by simp, by simp, by simp, by simp⟩⟩).imp id .inl
  | sknpVx x => exact (withKey_ends x skipWhenUp s fun b => ⟨_, rfl, ⟨by simp, by simp, by simp, by simp⟩⟩).imp id .inl
  | drwVxVyN x y n => exact (withRange_ends _ (drawAt x y n) s ⟨_, rfl, ⟨rfl, rfl, rfl, id⟩⟩).imp id .inl
  | ldBVx x => exact (withRange_ends _ (storeDigits x) s ⟨_, rfl, ⟨rfl, rfl, rfl, id⟩⟩).imp id .inl
  | ldMemVx x => exact (withRange_ends _ (storeRegisters x) s ⟨_, rfl, ⟨rfl, rfl, rfl, id⟩⟩).imp id .inl
  | ldVxMem x => exact (withRange_ends _ (loadRegisters x) s ⟨_, rfl, ⟨by simp, by simp, by simp, by simp⟩⟩).imp id .inl
  | rndVxNn x nn => exact .inl ⟨_, rfl, ⟨rfl, rfl, rfl, fun _ => rfl⟩⟩
  | _ => exact .inl ⟨_, rfl, ⟨rfl, rfl, rfl, id⟩⟩

/-- No step makes a random byte ready (10_state.md R38; log 1). -/
theorem step_noByte (s t : State) (hs : s.randIn = none) (h : step s = .next t) : t.randIn = none := by
  by_cases hh : s.status = .halted
  · rw [step_halted s hh] at h
    exact Host.Outcome.next.inj h ▸ hs
  cases hf : s.fetch? with
  | none =>
    rw [step_fetchFault s hh hf] at h
    exact Host.Outcome.next.inj h ▸ hs
  | some op =>
    rw [step_exec s op hh hf] at h
    rcases exec_ends (decodeWord op) s.tick.advance with ⟨u, hu, hk⟩ | ⟨c, info, hu⟩ | hu <;> rw [hu] at h
    · exact Host.Outcome.next.inj h ▸ hk.noByte hs
    · exact Host.Outcome.next.inj h ▸ hs
    · exact Host.Outcome.next.inj h ▸ hs

end Sys2Proof.Machine
end

