-- ==== Sys2Proof/Laws/PerInstr.lean ====
section
/-! SUPPORT. Per instruction: its encoded word is an instance of its row of the opcode map (30_encoding.md R74). -/

namespace Sys2Proof.Laws.EncodesItsRow

/-- The word of a well-formed instruction matches the mask and match of the instruction's row (R74). -/
def Statement (i : Instr) : Prop := i.wellFormed = true → i.row.hits (encodeWord i) = true

theorem hits_packNnn (o : Nibble) (a : Addr) :
    OpcodeRow.hits ⟨0xF000, packNnn o 0⟩ (packNnn o a) = true := by
  rw [OpcodeRow.hits, beq_iff_eq]
  apply BitVec.eq_of_getLsbD_eq
  intro i hi
  simp only [BitVec.getLsbD_and, packNnn_getLsbD]
  interval_cases i <;> simp

theorem hits_packXnn (o : Nibble) (x : RegIdx) (nn : Byte) :
    OpcodeRow.hits ⟨0xF000, packXnn o 0 0⟩ (packXnn o x nn) = true := by
  rw [OpcodeRow.hits, beq_iff_eq]
  apply BitVec.eq_of_getLsbD_eq
  intro i hi
  simp only [BitVec.getLsbD_and, packXnn_getLsbD]
  interval_cases i <;> simp

theorem hits_packXkk (o : Nibble) (x : RegIdx) (nn : Byte) :
    OpcodeRow.hits ⟨0xF0FF, packXnn o 0 nn⟩ (packXnn o x nn) = true := by
  rw [OpcodeRow.hits, beq_iff_eq]
  apply BitVec.eq_of_getLsbD_eq
  intro i hi
  simp only [BitVec.getLsbD_and, packXnn_getLsbD]
  interval_cases i <;> simp

theorem hits_packXy (o : Nibble) (x y : RegIdx) (n : Nibble) :
    OpcodeRow.hits ⟨0xF00F, packXyn o 0 0 n⟩ (packXyn o x y n) = true := by
  rw [OpcodeRow.hits, beq_iff_eq]
  apply BitVec.eq_of_getLsbD_eq
  intro i hi
  simp only [BitVec.getLsbD_and, packXyn_getLsbD]
  interval_cases i <;> simp

theorem hits_packXyn (o : Nibble) (x y : RegIdx) (n : Nibble) :
    OpcodeRow.hits ⟨0xF000, packXyn o 0 0 0⟩ (packXyn o x y n) = true := by
  rw [OpcodeRow.hits, beq_iff_eq]
  apply BitVec.eq_of_getLsbD_eq
  intro i hi
  simp only [BitVec.getLsbD_and, packXyn_getLsbD]
  interval_cases i <;> simp

theorem cls : Statement .cls := fun _ => by decide
theorem ret : Statement .ret := fun _ => by decide
theorem jp (nnn : Addr) : Statement (.jp nnn) := fun _ => hits_packNnn 0x1 nnn
theorem call (nnn : Addr) : Statement (.call nnn) := fun _ => hits_packNnn 0x2 nnn
theorem seVxNn (x : RegIdx) (nn : Byte) : Statement (.seVxNn x nn) := fun _ => hits_packXnn 0x3 x nn
theorem sneVxNn (x : RegIdx) (nn : Byte) : Statement (.sneVxNn x nn) := fun _ => hits_packXnn 0x4 x nn
theorem seVxVy (x y : RegIdx) : Statement (.seVxVy x y) := fun _ => hits_packXy 0x5 x y 0x0
theorem ldVxNn (x : RegIdx) (nn : Byte) : Statement (.ldVxNn x nn) := fun _ => hits_packXnn 0x6 x nn
theorem addVxNn (x : RegIdx) (nn : Byte) : Statement (.addVxNn x nn) := fun _ => hits_packXnn 0x7 x nn
theorem ldVxVy (x y : RegIdx) : Statement (.ldVxVy x y) := fun _ => hits_packXy 0x8 x y 0x0
theorem orVxVy (x y : RegIdx) : Statement (.orVxVy x y) := fun _ => hits_packXy 0x8 x y 0x1
theorem andVxVy (x y : RegIdx) : Statement (.andVxVy x y) := fun _ => hits_packXy 0x8 x y 0x2
theorem xorVxVy (x y : RegIdx) : Statement (.xorVxVy x y) := fun _ => hits_packXy 0x8 x y 0x3
theorem addVxVy (x y : RegIdx) : Statement (.addVxVy x y) := fun _ => hits_packXy 0x8 x y 0x4
theorem subVxVy (x y : RegIdx) : Statement (.subVxVy x y) := fun _ => hits_packXy 0x8 x y 0x5
theorem shrVx (x y : RegIdx) : Statement (.shrVx x y) := fun _ => hits_packXy 0x8 x y 0x6
theorem subnVxVy (x y : RegIdx) : Statement (.subnVxVy x y) := fun _ => hits_packXy 0x8 x y 0x7
theorem shlVx (x y : RegIdx) : Statement (.shlVx x y) := fun _ => hits_packXy 0x8 x y 0xE
theorem sneVxVy (x y : RegIdx) : Statement (.sneVxVy x y) := fun _ => hits_packXy 0x9 x y 0x0
theorem ldINnn (nnn : Addr) : Statement (.ldINnn nnn) := fun _ => hits_packNnn 0xA nnn
theorem jpV0Nnn (nnn : Addr) : Statement (.jpV0Nnn nnn) := fun _ => hits_packNnn 0xB nnn
theorem rndVxNn (x : RegIdx) (nn : Byte) : Statement (.rndVxNn x nn) := fun _ => hits_packXnn 0xC x nn
theorem drwVxVyN (x y : RegIdx) (n : Nibble) : Statement (.drwVxVyN x y n) := fun _ => hits_packXyn 0xD x y n
theorem skpVx (x : RegIdx) : Statement (.skpVx x) := fun _ => hits_packXkk 0xE x 0x9E
theorem sknpVx (x : RegIdx) : Statement (.sknpVx x) := fun _ => hits_packXkk 0xE x 0xA1
theorem ldVxDt (x : RegIdx) : Statement (.ldVxDt x) := fun _ => hits_packXkk 0xF x 0x07
theorem ldVxK (x : RegIdx) : Statement (.ldVxK x) := fun _ => hits_packXkk 0xF x 0x0A
theorem ldDtVx (x : RegIdx) : Statement (.ldDtVx x) := fun _ => hits_packXkk 0xF x 0x15
theorem ldStVx (x : RegIdx) : Statement (.ldStVx x) := fun _ => hits_packXkk 0xF x 0x18
theorem addIVx (x : RegIdx) : Statement (.addIVx x) := fun _ => hits_packXkk 0xF x 0x1E
theorem ldFVx (x : RegIdx) : Statement (.ldFVx x) := fun _ => hits_packXkk 0xF x 0x29
theorem ldBVx (x : RegIdx) : Statement (.ldBVx x) := fun _ => hits_packXkk 0xF x 0x33
theorem ldMemVx (x : RegIdx) : Statement (.ldMemVx x) := fun _ => hits_packXkk 0xF x 0x55
theorem ldVxMem (x : RegIdx) : Statement (.ldVxMem x) := fun _ => hits_packXkk 0xF x 0x65
theorem unrecognized (w : Word) : Statement (.unrecognized w) := fun _ => by
  simp [Instr.row, encodeWord, OpcodeRow.hits]

end Sys2Proof.Laws.EncodesItsRow
end

