-- ==== Sys2Proof/Laws/Ports.lean ====
section
/-! SUPPORT. The port-level reading (46_host_operations.md R209): the sampled keys, the byte write, the outputs. -/

namespace Sys2Proof.Machine

/-- Sampling the port replaces the keypad only. -/
theorem State.withKeyPort_eq (s : State) (port : BitVec Config.numKeys) :
    s.withKeyPort port = s.setKeys (Vector.ofFn (fun k => port.getLsbD k.val)) := rfl

@[simp] theorem State.withKeyPort_mem (s : State) (port : BitVec Config.numKeys) : (s.withKeyPort port).mem = s.mem := rfl
@[simp] theorem State.withKeyPort_v (s : State) (port : BitVec Config.numKeys) : (s.withKeyPort port).v = s.v := rfl
@[simp] theorem State.withKeyPort_i (s : State) (port : BitVec Config.numKeys) : (s.withKeyPort port).i = s.i := rfl
@[simp] theorem State.withKeyPort_pc (s : State) (port : BitVec Config.numKeys) : (s.withKeyPort port).pc = s.pc := rfl
@[simp] theorem State.withKeyPort_stack (s : State) (port : BitVec Config.numKeys) : (s.withKeyPort port).stack = s.stack := rfl
@[simp] theorem State.withKeyPort_dt (s : State) (port : BitVec Config.numKeys) : (s.withKeyPort port).dt = s.dt := rfl
@[simp] theorem State.withKeyPort_st (s : State) (port : BitVec Config.numKeys) : (s.withKeyPort port).st = s.st := rfl
@[simp] theorem State.withKeyPort_disp (s : State) (port : BitVec Config.numKeys) : (s.withKeyPort port).disp = s.disp := rfl
@[simp] theorem State.withKeyPort_status (s : State) (port : BitVec Config.numKeys) : (s.withKeyPort port).status = s.status := rfl
@[simp] theorem State.withKeyPort_cause (s : State) (port : BitVec Config.numKeys) : (s.withKeyPort port).cause = s.cause := rfl
@[simp] theorem State.withKeyPort_faddr (s : State) (port : BitVec Config.numKeys) : (s.withKeyPort port).faddr = s.faddr := rfl
@[simp] theorem State.withKeyPort_randDraws (s : State) (port : BitVec Config.numKeys) : (s.withKeyPort port).randDraws = s.randDraws := rfl
@[simp] theorem State.withKeyPort_keyDraws (s : State) (port : BitVec Config.numKeys) : (s.withKeyPort port).keyDraws = s.keyDraws := rfl
@[simp] theorem State.withKeyPort_randIn (s : State) (port : BitVec Config.numKeys) : (s.withKeyPort port).randIn = s.randIn := rfl
@[simp] theorem State.getV_withKeyPort (s : State) (port : BitVec Config.numKeys) (y : RegIdx) :
    (s.withKeyPort port).getV y = s.getV y := rfl
@[simp] theorem State.fetch?_withKeyPort (s : State) (port : BitVec Config.numKeys) : (s.withKeyPort port).fetch? = s.fetch? := rfl

/-- `KEY[k]` is bit `k` of the port. -/
theorem State.key_withKeyPort (s : State) (port : BitVec Config.numKeys) (k : Nat) :
    (s.withKeyPort port).key k = port.getLsbD k := by
  unfold State.key State.withKeyPort
  split
  · next h => simp [BitVec.getLsbD_eq_getElem h]
  · next h => exact (BitVec.getLsbD_of_ge _ _ (Nat.le_of_not_lt h)).symm

/-- Everything a byte write does. -/
theorem State.loadByte?_eq_some (s t : State) (addr : Addr) (data : Byte) :
    s.loadByte? addr data = some t ↔ 0x200 ≤ addr.toNat ∧ t = s.setMem (s.mem.write addr.toNat data) := by
  simp [State.loadByte?, eq_comm]

@[simp] theorem State.portsOut_disp (s : State) : s.portsOut.disp = s.readDisplay := by simp only [State.portsOut]
@[simp] theorem State.portsOut_dt (s : State) : s.portsOut.dt = s.dt := rfl
@[simp] theorem State.portsOut_st (s : State) : s.portsOut.st = s.st := rfl
@[simp] theorem State.portsOut_status (s : State) : s.portsOut.status = s.status.code := rfl
@[simp] theorem State.portsOut_cause (s : State) : s.portsOut.cause = s.cause.code := rfl
@[simp] theorem State.portsOut_faddr (s : State) : s.portsOut.faddr = s.faddr := rfl
@[simp] theorem State.portsOut_soundActive (s : State) : s.portsOut.soundActive = (s.st != 0) := rfl

end Sys2Proof.Machine
end

