-- ==== Sys2Proof/Tests/Slice0.lean ====
section
/-! SUPPORT. Checks of our own: ill-formed terms, words written out from the patterns, one-step vectors of
95_test_vectors.md, and a witness for the hypotheses of every obligation that has some. -/

open Sys2Proof Sys2Proof.Machine

namespace Sys2Proof.Tests

/-! ### Helpers -/

/-- The state a step ends in, which is always a next state. -/
def after : Host.Outcome State Fault Refusal → State
  | .next s => s
  | .fault _ | .refused _ => State.reset

theorem exec_answers (i : Instr) (s : State) : exec i s = .next (after (exec i s)) := by
  rcases exec_ends i s with ⟨u, h, -⟩ | ⟨c, info, h⟩ | h <;> (rw [h]; rfl)

theorem step_answers (s : State) (op : Word) (h : s.status ≠ .halted) (hf : s.fetch? = some op) :
    step s = .next (after (step s)) := by
  rw [step_exec s op h hf]; exact exec_answers _ _

/-- One step of `s` with the word stored at its PC. -/
def ran (s : State) (w : Nat) : State := after (step (s.withFetchWord 16 w))

/-- The reset state with registers set. -/
def regs (l : List (RegIdx × Byte)) : State := l.foldl (fun s p => s.setV p.1 p.2) State.reset

/-- Store bytes. -/
def poke (s : State) (a : Nat) (bs : List Byte) : State := s.setMem (s.mem.writeBytes a bs)

/-- Hold keys down. -/
def holding (s : State) (ks : List Nat) : State := s.setKeys (Vector.ofFn (fun k => ks.contains k.val))

/-- Turn pixels on, given as (x, y). -/
def lit (s : State) (ps : List (Nat × Nat)) : State :=
  s.setDisp (ps.foldl (fun d p => Display.flip d p.2 p.1) s.disp)

/-- The pixels that are on in the rows below `h`, as (x, y). -/
def onPixels (s : State) (h : Nat) : List (Nat × Nat) :=
  ((List.range h).flatMap fun y => (List.range 64).map fun x => (x, y)).filter fun p => s.disp.pixel p.2 p.1


/-! ### Well-formedness: the one check, and terms it refuses -/

theorem test_wellFormed_refuses_recognized_words :
    (Instr.unrecognized 0x00E0).wellFormed = false ∧ (Instr.unrecognized 0x8AB4).wellFormed = false ∧
    (Instr.unrecognized 0xFF65).wellFormed = false ∧ (Instr.unrecognized 0x1000).wellFormed = false := by decide
theorem test_wellFormed_accepts :
    (Instr.unrecognized 0x0000).wellFormed = true ∧ (Instr.unrecognized 0x00E1).wellFormed = true ∧
    (Instr.unrecognized 0x8AB8).wellFormed = true ∧ (Instr.drwVxVyN 15 15 15).wellFormed = true := by decide

/-! ### Decoding: the words of 95_test_vectors.md 2.1, every constructor -/

theorem test_decode_control :
    decodeWord 0x00E0 = .cls ∧ decodeWord 0x00EE = .ret ∧ decodeWord 0x1ABC = .jp 0xABC ∧
    decodeWord 0x2208 = .call 0x208 ∧ decodeWord 0x3A7F = .seVxNn 10 0x7F ∧ decodeWord 0x4F00 = .sneVxNn 15 0x00 ∧
    decodeWord 0x5120 = .seVxVy 1 2 ∧ decodeWord 0x9120 = .sneVxVy 1 2 ∧ decodeWord 0xBFF0 = .jpV0Nnn 0xFF0 := by decide
theorem test_decode_alu :
    decodeWord 0x6C2A = .ldVxNn 12 0x2A ∧ decodeWord 0x7003 = .addVxNn 0 0x03 ∧ decodeWord 0x8AB0 = .ldVxVy 10 11 ∧
    decodeWord 0x8AB1 = .orVxVy 10 11 ∧ decodeWord 0x8AB2 = .andVxVy 10 11 ∧ decodeWord 0x8AB3 = .xorVxVy 10 11 ∧
    decodeWord 0x8AB4 = .addVxVy 10 11 ∧ decodeWord 0x8AB5 = .subVxVy 10 11 ∧ decodeWord 0x8AB6 = .shrVx 10 11 ∧
    decodeWord 0x8AB7 = .subnVxVy 10 11 ∧ decodeWord 0x8ABE = .shlVx 10 11 ∧ decodeWord 0xC10F = .rndVxNn 1 0x0F := by
  decide
theorem test_decode_memory_display :
    decodeWord 0xA300 = .ldINnn 0x300 ∧ decodeWord 0xF11E = .addIVx 1 ∧ decodeWord 0xF029 = .ldFVx 0 ∧
    decodeWord 0xF033 = .ldBVx 0 ∧ decodeWord 0xF255 = .ldMemVx 2 ∧ decodeWord 0xFF65 = .ldVxMem 15 ∧
    decodeWord 0xD125 = .drwVxVyN 1 2 5 ∧ decodeWord 0xD120 = .drwVxVyN 1 2 0 := by decide
theorem test_decode_keys_timers :
    decodeWord 0xE19E = .skpVx 1 ∧ decodeWord 0xE1A1 = .sknpVx 1 ∧ decodeWord 0xF007 = .ldVxDt 0 ∧
    decodeWord 0xF30A = .ldVxK 3 ∧ decodeWord 0xF015 = .ldDtVx 0 ∧ decodeWord 0xF218 = .ldStVx 2 := by decide
theorem test_decode_unrecognized_low :
    decodeWord 0x0000 = .unrecognized 0x0000 ∧ decodeWord 0x00E1 = .unrecognized 0x00E1 ∧
    decodeWord 0x01E0 = .unrecognized 0x01E0 ∧ decodeWord 0x0AEE = .unrecognized 0x0AEE ∧
    decodeWord 0x5121 = .unrecognized 0x5121 ∧ decodeWord 0x512F = .unrecognized 0x512F ∧
    decodeWord 0x8AB8 = .unrecognized 0x8AB8 ∧ decodeWord 0x8ABF = .unrecognized 0x8ABF := by decide
theorem test_decode_unrecognized_high :
    decodeWord 0x9121 = .unrecognized 0x9121 ∧ decodeWord 0xE19F = .unrecognized 0xE19F ∧
    decodeWord 0xE1A0 = .unrecognized 0xE1A0 ∧ decodeWord 0xF000 = .unrecognized 0xF000 ∧
    decodeWord 0xF075 = .unrecognized 0xF075 ∧ decodeWord 0xF085 = .unrecognized 0xF085 ∧
    decodeWord 0xF130 = .unrecognized 0xF130 := by decide
theorem test_encode : encode (.drwVxVyN 1 2 5) = [0xD1, 0x25] ∧ encode (.shlVx 10 11) = [0x8A, 0xBE] := by decide
theorem test_decodeTableWord : decodeTableWord 16 0x00E0 = some .cls ∧ decodeTableWord 16 0xF30A = some (.ldVxK 3) := by decide

/-! ### 95_test_vectors.md 2.2, the step cycle -/

theorem test_T2 : let t := ran ((State.reset.setDt 1).setSt 1) 0x0000
    t.pc = 0x202 ∧ t.dt = 0 ∧ t.st = 0 := by decide
theorem test_T6 : (ran (State.reset.setPc 0xFFE) 0x1200).pc = 0x200 := by decide
theorem test_T7 : let t := after (step ((State.reset.setPc 0xFFF).setDt 4))
    t.status = .halted ∧ t.cause = .pcOutOfBounds ∧ t.faddr = 0x0FFF ∧ t.pc = 0xFFF ∧ t.dt = 3 := by decide
theorem test_T10 : let s := (State.reset.setDt 3).takeFault .pcOutOfBounds 0xFFF 0xFFF
    after (step s) = s := by decide
theorem test_T12 : let t := after (step (poke (State.reset.setPc 0x201) 0x201 [0x60, 0x07]))
    t.getV 0 = 7 ∧ t.pc = 0x203 := by decide

/-! ### 2.3, control transfer -/

theorem test_J4 : (ran State.reset 0x1000).pc = 0x000 := by decide
theorem test_K2 : let t := ran (State.reset.setStack (List.replicate 15 0x202)) 0x2300
    t.stk? 15 = some 0x202 ∧ t.sp = 16 ∧ t.pc = 0x300 := by decide
theorem test_K3 : let t := ran ((State.reset.setStack (List.replicate 16 0x204)).setDt 2) 0x2300
    t.status = .halted ∧ t.cause = .stackOverflow ∧ t.faddr = 0x200 ∧ t.pc = 0x200 ∧ t.sp = 16 ∧ t.dt = 1 := by decide
theorem test_K6 : let t := ran State.reset 0x00EE
    t.status = .halted ∧ t.cause = .stackUnderflow ∧ t.faddr = 0x200 ∧ t.pc = 0x200 ∧ t.sp = 0 := by decide
theorem test_K8 : let t := ran (State.reset.setStack [0x30A, 0x204]) 0x00EE
    t.pc = 0x30A ∧ t.sp = 1 ∧ t.stk? 0 = some 0x204 := by decide
theorem test_B2 : (ran (regs [(0, 0x20)]) 0xBFF0).pc = 0x010 := by decide
theorem test_B6 : (ran (regs [(3, 0x55)]) 0xB300).pc = 0x300 := by decide
theorem test_Q1_Q2 : (ran (regs [(0, 5)]) 0x3005).pc = 0x204 ∧ (ran (regs [(0, 6)]) 0x3005).pc = 0x202 := by decide
theorem test_Q4_Q5 : (ran (regs [(0, 5)]) 0x4005).pc = 0x202 ∧ (ran (regs [(0, 6)]) 0x4005).pc = 0x204 := by decide
theorem test_Q6_Q7 :
    (ran (regs [(1, 7), (2, 7)]) 0x5120).pc = 0x204 ∧ (ran (regs [(1, 7), (2, 8)]) 0x5120).pc = 0x202 := by decide
theorem test_Q9_Q10 :
    (ran (regs [(1, 7), (2, 8)]) 0x9120).pc = 0x204 ∧ (ran (regs [(1, 7), (2, 7)]) 0x9120).pc = 0x202 := by decide
theorem test_Q12 : (ran (regs [(1, 7), (2, 7)]) 0x5121).pc = 0x202 := by decide
theorem test_Q14 : (ran (State.reset.setPc 0xFFE) 0x3000).pc = 0x1002 := by decide

/-! ### 2.4, loads, arithmetic, logic, shifts, random -/

theorem test_A2 : (ran State.reset 0x6FAB).getV 15 = 0xAB := by decide
theorem test_A4 : let t := ran (regs [(0, 0xFF)]) 0x7001
    t.getV 0 = 0 ∧ t.getV vf = 0 := by decide
theorem test_A7 : (ran (regs [(15, 0xFE)]) 0x7F03).getV vf = 1 := by decide
theorem test_A8 : let t := ran (regs [(2, 0x3C)]) 0x8120
    t.getV 1 = 0x3C ∧ t.getV 2 = 0x3C := by decide
theorem test_A9 : let t := ran (regs [(1, 0xF0), (2, 0x0F), (15, 1)]) 0x8121
    t.getV 1 = 0xFF ∧ t.getV vf = 1 := by decide
theorem test_A10 : let t := ran (regs [(1, 0xF3), (2, 0x3F), (15, 1)]) 0x8122
    t.getV 1 = 0x33 ∧ t.getV vf = 1 := by decide
theorem test_A11 : let t := ran (regs [(1, 0xFF), (2, 0x0F), (15, 1)]) 0x8123
    t.getV 1 = 0xF0 ∧ t.getV vf = 1 := by decide
theorem test_A16 : let t := ran (regs [(0, 0xFF), (1, 0x01)]) 0x8014
    t.getV 0 = 0x00 ∧ t.getV vf = 1 := by decide
theorem test_A20 : (ran (regs [(15, 0x01), (1, 0x02)]) 0x8F14).getV vf = 0 := by decide
theorem test_A23 : let t := ran (regs [(0, 0x05), (1, 0x07)]) 0x8015
    t.getV 0 = 0xFE ∧ t.getV vf = 0 ∧ t.getV 1 = 0x07 := by decide
theorem test_A24 : let t := ran (regs [(0, 0x07), (1, 0x07)]) 0x8015
    t.getV 0 = 0 ∧ t.getV vf = 1 := by decide
theorem test_A34 : let t := ran (regs [(1, 0x05), (2, 0xAA)]) 0x8126
    t.getV 1 = 0x02 ∧ t.getV 2 = 0xAA ∧ t.getV vf = 1 := by decide
theorem test_A36 : (ran (regs [(15, 0x02)]) 0x8F06).getV vf = 0 := by decide
theorem test_A37 : let t := ran (regs [(0, 0x05), (1, 0x07)]) 0x8017
    t.getV 0 = 0x02 ∧ t.getV vf = 1 := by decide
theorem test_A38 : let t := ran (regs [(0, 0x07), (1, 0x05)]) 0x8017
    t.getV 0 = 0xFE ∧ t.getV vf = 0 := by decide
theorem test_A43 : let t := ran (regs [(1, 0x81), (2, 0x55)]) 0x812E
    t.getV 1 = 0x02 ∧ t.getV 2 = 0x55 ∧ t.getV vf = 1 := by decide
theorem test_A45 : (ran (regs [(15, 0x40)]) 0x8F0E).getV vf = 0 := by decide
/-- A49, for every value of the free byte. -/
theorem test_A49 : (ran State.reset 0xC1F0).getV 1 = Config.randomByte 0 &&& 0xF0 := by rfl
/-- A47. -/
theorem test_A47 : (ran State.reset 0xC100).randDraws = 1 := by decide

/-! ### 2.5, index register and memory -/

theorem test_I3 : (ran State.reset 0xAFFF).i = 0xFFF := by decide
theorem test_I7 : let t := ran ((regs [(1, 0xFF)]).setI 0xF01) 0xF11E
    t.i = 0x000 ∧ t.getV vf = 1 := by decide
theorem test_I9 : let t := ran ((regs [(15, 0x10)]).setI 0x100) 0xFF1E
    t.i = 0x110 ∧ t.getV vf = 0 := by decide
theorem test_I14 : (ran (regs [(0, 0x0A)]) 0xF029).i = 0x082 := by decide
theorem test_I16 : (ran (regs [(0, 0x1A)]) 0xF029).i = 0x082 := by decide
theorem test_I27 : let t := ran ((regs [(0, 157)]).setI 0xFFD) 0xF033
    t.mem.read 0xFFD = 1 ∧ t.mem.read 0xFFE = 5 ∧ t.mem.read 0xFFF = 7 := by decide
theorem test_I28 : let t := ran ((poke (regs [(0, 157)]) 0xFFE [0xAA, 0xBB]).setI 0xFFE) 0xF033
    t.status = .halted ∧ t.cause = .memoryAccess ∧ t.faddr = 0x1000 ∧ t.pc = 0x200 ∧
    t.mem.read 0xFFE = 0xAA ∧ t.mem.read 0xFFF = 0xBB := by decide
theorem test_I30 : let t := ran ((poke (regs [(0, 0xAA), (1, 0xBB), (2, 0xCC)]) 0x403 [0x77]).setI 0x400) 0xF255
    t.mem.read 0x400 = 0xAA ∧ t.mem.read 0x401 = 0xBB ∧ t.mem.read 0x402 = 0xCC ∧ t.mem.read 0x403 = 0x77 ∧
    t.i = 0x400 := by decide
theorem test_I40 : let t := ran ((regs [(0, 0x12)]).setI 0x200) 0xF155
    t.pc = 0x202 ∧ (t.setPc 0x200).fetch? = some 0x1200 := by decide
theorem test_I36 : let t := ran ((poke (regs [(3, 0x33)]) 0x300 [1, 5, 7, 9]).setI 0x300) 0xF265
    t.getV 0 = 1 ∧ t.getV 1 = 5 ∧ t.getV 2 = 7 ∧ t.getV 3 = 0x33 ∧ t.i = 0x300 := by decide
theorem test_I38 : let t := ran ((regs [(0, 0x99), (1, 0x88)]).setI 0xFFF) 0xF165
    t.status = .halted ∧ t.cause = .memoryAccess ∧ t.faddr = 0x1000 ∧ t.getV 0 = 0x99 ∧ t.getV 1 = 0x88 := by decide

/-! ### 2.6, display -/

theorem test_G1 : let t := ran (lit (regs [(15, 1)]) [(0, 0), (63, 31)]) 0x00E0
    t.disp = State.reset.disp ∧ t.getV vf = 1 := by decide
theorem test_G5 : let t := ran ((poke (lit State.reset [(0, 0)]) 0x300 [0xC0]).setI 0x300) 0xD011
    onPixels t 2 = [(1, 0)] ∧ t.getV vf = 1 := by decide
theorem test_G11 : let t := ran ((poke (regs [(0, 0xFE), (1, 0x21)]) 0x300 [0xFF, 0xFF]).setI 0x300) 0xD012
    onPixels t 4 = [(62, 1), (63, 1), (62, 2), (63, 2)] ∧ t.getV vf = 0 := by decide

/-! ### 2.7, keypad and timers -/

theorem test_E1_E2 : (ran (holding (regs [(1, 4)]) [4]) 0xE19E).pc = 0x204 ∧
    (ran (holding (regs [(1, 4)]) [5]) 0xE19E).pc = 0x202 := by decide
theorem test_E6 : let t := ran ((holding (regs [(1, 0x10)]) [0]).setDt 8) 0xE19E
    t.status = .halted ∧ t.cause = .keyIndex ∧ t.faddr = 0x0010 ∧ t.pc = 0x200 ∧ t.dt = 7 := by decide
theorem test_E3_E4 : (ran (regs [(1, 4)]) 0xE1A1).pc = 0x204 ∧
    (ran (holding (regs [(1, 4)]) [4]) 0xE1A1).pc = 0x202 := by decide
theorem test_E7 : let t := ran (regs [(1, 0xFF)]) 0xE1A1
    t.status = .halted ∧ t.cause = .keyIndex ∧ t.faddr = 0x00FF ∧ t.pc = 0x200 := by decide
/-- W1; the free choice is not consulted when no key is down. -/
theorem test_W1 : let t := ran (State.reset.setDt 6) 0xF30A
    t.pc = 0x200 ∧ t.status = .awaitingKey ∧ t.dt = 5 ∧ t.getV 3 = 0 := by
  refine ⟨by rfl, by rfl, by rfl, by rfl⟩
/-- W4: with one key down the choice is that key whatever the free value is. -/
theorem test_W4 : (holding State.reset [4]).chooseKey? = some 4 := by
  have h : (holding State.reset [4]).pressed = [4] := by decide
  simp [State.chooseKey?, h, Nat.mod_one]
theorem test_D1 : let t := ran (State.reset.setDt 3) 0xF007
    t.getV 0 = 2 ∧ t.dt = 2 := by decide
theorem test_D3 : let t := ran (regs [(0, 9)]) 0xF007
    t.getV 0 = 0 ∧ t.dt = 0 := by decide
theorem test_D4 : (ran ((regs [(0, 5)]).setDt 200) 0xF015).dt = 5 := by decide
theorem test_D7 : let t := ran (regs [(2, 0x10)]) 0xF218
    t.st = 0x10 ∧ t.soundActive = true := by decide

/-! ### 2.8, host operations -/

theorem test_H6 : (State.reset.loadProgram? [0x12]).bind (fun t => t.fetch?) = some 0x1200 := by decide
theorem test_H8_H9 : (State.reset.setKey? 15 true).map (fun t => t.key 15) = some true ∧
    State.reset.setKey? 16 true = none := by decide
theorem test_H11 : State.reset.delayTimerValue = 0 ∧ State.reset.soundTimerValue = 0 ∧ State.reset.soundActive = false := by
  decide
theorem test_H12 : (State.reset.takeFault .keyIndex 16 0x200).create = State.reset := by decide
theorem test_codes : RunStatus.halted.code = 2 ∧ RunStatus.awaitingKey.code = 1 ∧ Cause.stackOverflow.code = 3 ∧
    Cause.keyIndex.code = 5 := by decide
theorem test_keyPort : (State.reset.withKeyPort 0x8001).pressed = [0, 15] := by decide
theorem test_loadByte : State.reset.loadByte? 0x1FF 7 = none ∧
    (State.reset.loadByte? 0x200 7).map (fun t => t.mem.read 0x200) = some 7 := by decide

/-! ### Witnesses of the obligations' hypotheses -/

theorem witness_DecodeAfterEncodeIsIdentity :
    (Instr.ldVxMem 15).wellFormed = true ∧ (Instr.unrecognized 0x00E1).wellFormed = true := by decide
theorem witness_DecoderSelectsByMaskAndMatch :
    (⟨0xF00F, 0x8004⟩ : OpcodeRow) ∈ opcodeRows ∧ OpcodeRow.hits ⟨0xF00F, 0x8004⟩ 0x8014 = true ∧
    OpcodeRow.hits ⟨0xF00F, 0x8004⟩ 0x8015 = false ∧ recognizedWord 0x00E1 = false ∧ recognizedWord 0x00E0 = true := by decide
/-- Each clause of the draw: an empty sprite anywhere, a sprite ending with the last byte, one byte past it. -/
theorem witness_DrwFlipsSpritePixelsAndReportsCollision :
    (0 : Nibble) = 0 ∧ ((State.reset.setI 0xFF1).setPc 0x202).pc = (0x200 : Word) + 2 ∧
    (State.reset.setI 0xFF1).i.toNat + (15 : Nibble).toNat = 0x1000 ∧ (15 : Nibble) ≠ 0 ∧
    0x1000 < (State.reset.setI 0xFF2).i.toNat + (15 : Nibble).toNat := by decide
theorem witness_DrawingTwiceRestoresDisplay :
    let s := (poke State.reset 0x300 [0xF0]).setI 0x300
    (0 : RegIdx) ≠ vf ∧ (1 : RegIdx) ≠ vf ∧ exec (.drwVxVyN 0 1 1) s = .next (after (exec (.drwVxVyN 0 1 1) s)) ∧
    (after (exec (.drwVxVyN 0 1 1) s)).status = .running :=
  ⟨by decide, by decide, exec_answers _ _, by decide⟩
theorem witness_RetPopsOrUnderflows :
    let s := (State.reset.setPc 0x202).setStack [0x204]
    s.pc = (0x200 : Word) + 2 ∧ s.sp ≠ 0 ∧ (s.setStack []).sp = 0 := by decide
theorem witness_CallPushesOrOverflows :
    let s := State.reset.setPc 0x202
    s.pc = (0x200 : Word) + 2 ∧ (s.setStack (List.replicate 15 0)).sp < 16 ∧ 16 ≤ (s.setStack (List.replicate 16 0)).sp := by
  decide
theorem witness_UnrecognizedDoesNothing :
    let s := State.reset.withFetchWord 16 0x5121
    recognizedWord 0x5121 = false ∧ s.status ≠ .halted ∧ s.fetch? = some 0x5121 := by decide
theorem witness_flag_destinations : (14 : RegIdx) ≠ vf ∧ (15 : RegIdx) = vf := by decide
/-- A state with a program `F029` loaded, which `step` therefore runs, and the font region as at reset. -/
theorem witness_GlyphBytesAreFontRom :
    (State.reset.loadProgram? [0xF0, 0x29]).bind State.fetch? = some 0xF029 ∧
    (∀ t, State.reset.loadProgram? [0xF0, 0x29] = some t →
      ∀ c, 0x050 ≤ c → c ≤ 0x09F → t.mem.read c = Memory.initial c) ∧ 4 < 5 := by
  refine ⟨by decide, fun t ht c _ h => ?_, by decide⟩
  obtain rfl : _ = t := Option.some.inj ht
  exact Memory.read_writeBytes_outside _ _ _ _ (.inl (Nat.lt_of_le_of_lt h (by decide)))
/-- A byte ready, the largest, and none. -/
theorem witness_RndMasksOneFreshByte :
    (State.reset.setRandIn (some 0xFF)).randIn = some 0xFF ∧ State.reset.randIn = none := by decide
theorem witness_LdBVxStoresDecimalDigits :
    let s := State.reset.setPc 0x202
    s.pc = (0x200 : Word) + 2 ∧ (s.setI 0xFFD).i.toNat + 2 ≤ 0xFFF ∧ 0xFFF < (s.setI 0xFFE).i.toNat + 2 := by decide
theorem witness_LdMemVxStoresRegisters :
    let s := State.reset.setPc 0x202
    s.pc = (0x200 : Word) + 2 ∧ (s.setI 0xFF0).i.toNat + (15 : RegIdx).toNat ≤ 0xFFF ∧
    0xFFF < (s.setI 0xFF1).i.toNat + (15 : RegIdx).toNat := by decide
theorem witness_LdVxMemLoadsRegisters :
    let s := State.reset.setPc 0x202
    s.pc = (0x200 : Word) + 2 ∧ (s.setI 0xFFF).i.toNat + (0 : RegIdx).toNat ≤ 0xFFF ∧
    0xFFF < (s.setI 0xFFF).i.toNat + (1 : RegIdx).toNat := by decide
theorem witness_StoredWordIsFetched :
    1 ≤ (1 : RegIdx).toNat ∧ (State.reset.setI 0xFFE).i.toNat + (1 : RegIdx).toNat ≤ 0xFFF := by decide
theorem witness_KeySkipsTestOneKey :
    (State.reset.setPc 0x202).pc = (0x200 : Word) + 2 ∧ ((regs [(1, 15)]).getV 1).toNat ≤ 15 ∧
    15 < ((regs [(1, 16)]).getV 1).toNat := by decide
theorem witness_LdVxKWaitsOrStoresPressedKey :
    (State.reset.setPc 0x202).pc = (0x200 : Word) + 2 ∧ (∀ k, k < 16 → State.reset.key k = false) ∧
    (∃ k, k < 16 ∧ (holding State.reset [15]).key k = true) := by decide
theorem witness_WaitingStepOnlyTicks :
    let s := State.reset.withFetchWord 16 0xF30A
    s.status ≠ .halted ∧ s.fetch? = some (packXnn 0xF 3 0x0A) ∧ ∀ k, k < 16 → s.key k = false := by decide
theorem witness_TimerAccessFollowsTheTick :
    State.reset.status ≠ .halted ∧ (State.reset.withFetchWord 16 0xF007).fetch? = some (packXnn 0xF 0 0x07) ∧
    (State.reset.withFetchWord 16 0xF015).fetch? = some (packXnn 0xF 0 0x15) ∧
    (State.reset.withFetchWord 16 0xF218).fetch? = some (packXnn 0xF 2 0x18) := by decide
theorem witness_StepRunsDecodedInstruction :
    let s := (State.reset.setPc 0xFFE).withFetchWord 16 0x8014
    s.status ≠ .halted ∧ s.pc.toNat ≤ 0xFFE ∧
    decode [s.mem.read s.pc.toNat, s.mem.read (s.pc.toNat + 1)] = .ok (.addVxVy 0 1, []) :=
  ⟨by decide, by decide, rfl⟩
theorem witness_FetchPastMemoryHalts :
    (State.reset.setPc 0xFFF).status ≠ .halted ∧ 0xFFE < (State.reset.setPc 0xFFF).pc.toNat ∧
    0xFFE < (State.reset.setPc 0x1002).pc.toNat := by decide
theorem witness_HaltedIsAbsorbing : (State.reset.takeFault .keyIndex 16 0x200).status = .halted := by decide
theorem witness_AwaitingKeyStepsAsRunning : (after (step (State.reset.withFetchWord 16 0xF30A))).status = .awaitingKey := rfl
/-- Both clauses: a word that writes no timer, and a fetch that fails. -/
theorem witness_TimersTickOncePerStep :
    let s := (State.reset.setDt 5).withFetchWord 16 0x6005
    s.status ≠ .halted ∧ step s = .next (after (step s)) ∧
    (∀ op x, s.fetch? = some op → decodeWord op ≠ .ldDtVx x ∧ decodeWord op ≠ .ldStVx x) ∧
    (∀ op : Word, (State.reset.setPc 0xFFF).fetch? ≠ some op) := by
  have hf : ((State.reset.setDt 5).withFetchWord 16 0x6005).fetch? = some 0x6005 := by decide
  have hd : decodeWord 0x6005 = .ldVxNn 0 5 := by decide
  refine ⟨by decide, step_answers _ 0x6005 (by decide) hf, ?_, fun op h => by cases h⟩
  intro op x h
  rw [hf] at h
  cases h
  rw [hd]
  exact ⟨nofun, nofun⟩
/-- A step without a fault, and one with. -/
theorem witness_PcAfterStepFollowsTable :
    let s := State.reset.withFetchWord 16 0x1ABC
    let u := State.reset.withFetchWord 16 0x00EE
    s.status ≠ .halted ∧ s.fetch? = some 0x1ABC ∧ (s.executeFault? 0x1ABC).isSome = false ∧
    u.status ≠ .halted ∧ u.fetch? = some 0x00EE ∧ (u.executeFault? 0x00EE).isSome = true := by decide
/-- Every cause of the table, the boundary on its fault-free side, and a plain instruction. -/
theorem witness_StepFaultsExactlyByTable :
    State.reset.status ≠ .halted ∧
    (State.reset.setPc 0xFFF).fault? = some (.pcOutOfBounds, 0xFFF) ∧ (State.reset.setPc 0xFFE).fault? = none ∧
    (State.reset.withFetchWord 16 0x00EE).fault? = some (.stackUnderflow, 0x200) ∧
    ((State.reset.setStack (List.replicate 16 0)).withFetchWord 16 0x2300).fault? = some (.stackOverflow, 0x200) ∧
    ((State.reset.setStack (List.replicate 15 0)).withFetchWord 16 0x2300).fault? = none ∧
    ((State.reset.setI 0xFFE).withFetchWord 16 0xF033).fault? = some (.memoryAccess, 0x1000) ∧
    ((State.reset.setI 0xFFD).withFetchWord 16 0xF033).fault? = none ∧
    ((State.reset.setI 0xFFF).withFetchWord 16 0xD010).fault? = none ∧
    ((State.reset.setI 0xFFF).withFetchWord 16 0xD012).fault? = some (.memoryAccess, 0x1000) ∧
    ((regs [(1, 16)]).withFetchWord 16 0xE19E).fault? = some (.keyIndex, 16) ∧
    ((regs [(1, 15)]).withFetchWord 16 0xE19E).fault? = none := by decide
/-- A register that is no destination, and a flag. -/
theorem witness_RegistersChangeOnlyAsDestinationOrFlag :
    let s := regs [(0, 0xFF), (1, 1)]
    exec (.addVxVy 0 1) s = .next (after (exec (.addVxVy 0 1) s)) ∧ (Instr.addVxVy 0 1).namesDestination 1 = false ∧
    (1 : RegIdx) ≠ vf ∧ (Instr.orVxVy 0 1).namesDestination vf = false ∧ (Instr.orVxVy 0 1).writesFlag = false ∧
    (Instr.addVxVy 0 1).writesFlag = true ∧ (after (exec (.addVxVy 0 1) s)).status = .running :=
  ⟨exec_answers _ _, by decide, by decide, by decide, by decide, by decide, by decide⟩
/-- Each part that has writers is changed by one of them, and every `exec` answers a next state. -/
theorem witness_EachPartHasOnlyItsWriters :
    let s := (regs [(0, 9)]).setI 0x300
    exec (.ldBVx 0) s = .next (after (exec (.ldBVx 0) s)) ∧ (after (exec (.ldBVx 0) s)).mem ≠ s.mem ∧
    (after (exec (.ldINnn 0) s)).i ≠ s.i ∧ (after (exec (.call 0x300) s)).stack ≠ s.stack ∧
    (after (exec (.ldDtVx 0) s)).dt ≠ s.dt ∧ (after (exec (.ldStVx 0) s)).st ≠ s.st ∧
    (after (exec .cls (lit s [(3, 1)]))).disp ≠ (lit s [(3, 1)]).disp :=
  ⟨exec_answers _ _, by decide, by decide, by decide, by decide, by decide, by decide⟩
/-- Both clauses. -/
theorem witness_OnlyRndConsumesRandomBytes :
    let s := State.reset.withFetchWord 16 0xC10F
    let u := State.reset.withFetchWord 16 0x6005
    s.status ≠ .halted ∧ step s = .next (after (step s)) ∧
    (∃ op x nn, s.fetch? = some op ∧ decodeWord op = .rndVxNn x nn) ∧
    u.status ≠ .halted ∧ step u = .next (after (step u)) ∧
    (∀ op x nn, u.fetch? = some op → decodeWord op ≠ .rndVxNn x nn) := by
  have hs : (State.reset.withFetchWord 16 0xC10F).fetch? = some 0xC10F := by decide
  have hu : (State.reset.withFetchWord 16 0x6005).fetch? = some 0x6005 := by decide
  have hd : decodeWord 0x6005 = .ldVxNn 0 5 := by decide
  refine ⟨by decide, step_answers _ _ (by decide) hs, ⟨0xC10F, 1, 0x0F, hs, by decide⟩, by decide,
    step_answers _ _ (by decide) hu, ?_⟩
  intro op x nn h
  rw [hu] at h
  cases h
  rw [hd]
  intro hc
  cases hc
theorem witness_KeypadIsReadOnlyByKeyInstructions : (Instr.addVxVy 0 1).readsKeys = false := by decide
theorem witness_SoundTimerIsNeverRead : (∀ x, (Instr.ldVxDt 0) ≠ .ldStVx x) ∧ (Instr.ldStVx 2) = .ldStVx 2 := by decide
theorem witness_DisplayIsReadOnlyForCollision :
    (∀ x y n, (Instr.ldVxDt 0) ≠ .drwVxVyN x y n) ∧ (Instr.ldVxDt 0) ≠ .cls ∧
    (let s := (poke State.reset 0x300 [0xF0]).setI 0x300
     exec (.drwVxVyN 0 1 1) s = .next (after (exec (.drwVxVyN 0 1 1) s)) ∧
     exec (.drwVxVyN 0 1 1) (s.setDisp (lit s [(0, 0)]).disp) =
       .next (after (exec (.drwVxVyN 0 1 1) (s.setDisp (lit s [(0, 0)]).disp)))) :=
  ⟨nofun, by decide, exec_answers _ _, exec_answers _ _⟩
/-- A state with a stored byte, a full call stack and the last PC that can fetch meets the invariant and can step. -/
theorem witness_StepKeepsInvariant :
    let s := ((poke State.reset 0x300 [1]).setStack (List.replicate 16 0x1000)).setPc 0xFFE
    s.Inv ∧ step s = .next (after (step s)) := by
  refine ⟨⟨Memory.wf_writeBytes _ _ _ Memory.wf_nil, by decide, by decide, by decide, ?_, by decide, by decide, ?_⟩,
    step_answers _ 0x0000 (by decide) (by decide)⟩
  · intro r hr
    rw [List.eq_of_mem_replicate hr]
    decide
  · intro h; cases h
/-- Every move of the host is possible in the fresh session. -/
theorem witness_HostMovesKeepInvariant :
    Session.fresh.Inv ∧ (Session.fresh.move .step).isSome = true ∧ (Session.fresh.move (.loadProgram [0x12])).isSome = true ∧
    (Session.fresh.move (.setKey 15 true)).isSome = true ∧ (Session.fresh.move (.stepWith 0xA7)).isSome = true ∧
    (Session.fresh.move .create).isSome = true := by
  refine ⟨⟨⟨Memory.wf_nil, by decide, by decide, by decide, ?_, by decide, by decide, ?_⟩, fun _ => rfl, rfl⟩,
    by decide, by decide, by decide, by decide⟩
  · intro r hr; cases hr
  · intro h; cases h
/-- Two memories built in opposite orders. -/
theorem witness_CanonicalMemoryIsDeterminedByItsBytes :
    let m := (Memory.write (Memory.write [] 0x300 5) 0x301 6 : Memory)
    let m' := (Memory.write (Memory.write [] 0x301 6) 0x300 5 : Memory)
    m.wf ∧ m'.wf ∧ ∀ a, m.read a = m'.read a :=
  ⟨Memory.wf_write _ _ _ (Memory.wf_write _ _ _ Memory.wf_nil), Memory.wf_write _ _ _ (Memory.wf_write _ _ _ Memory.wf_nil),
    fun _ => rfl⟩
/-- H3, H4: the longest program that fits, and one byte more. -/
theorem witness_LoadProgramCopiesBytes :
    (List.replicate 3584 (0xAA : Byte)).length ≤ 3584 ∧ 3584 < (List.replicate 3585 (0xAA : Byte)).length := by
  simp only [List.length_replicate]; omega
theorem witness_ProgramIsLoadedOnceBeforeStepping :
    Session.fresh.mayLoad = true ∧ ((Session.fresh.move .step).map (fun p => p.1.mayLoad)) = some false ∧
    ([0x12] : List Byte).length ≤ 3584 ∧ 15 < 16 ∧ 16 ≤ 16 := by decide
/-- Longest program that fits and one byte more: `witness_LoadProgramCopiesBytes`. A key may be set before the load. -/
theorem test_key_then_load :
    (Session.fresh.move (.setKey 15 true)).bind (fun p => (p.1.move (.loadProgram [0x12])).map
      (fun q => (q.2, q.1.mayLoad, q.1.machine.key 15, q.1.machine.mem.read 0x200))) = some (.done, false, true, 0x12) := by
  decide
theorem witness_SetKeySetsOneKey : 15 < 16 ∧ 16 ≤ 16 := by decide
/-- G21, and the last pixel's indexes. -/
theorem witness_ReadDisplayIsRowMajor :
    31 < 32 ∧ 63 < 64 ∧ (lit State.reset [(3, 1)]).readDisplay[67]? = some true ∧
    (lit State.reset [(3, 1)]).readDisplay[66]? = some false := by
  refine ⟨by decide, by decide, ?_, ?_⟩ <;>
  · rw [State.readDisplay, List.getElem?_map, List.getElem?_range (by decide)]
    decide

/-- Each clause of a pulse: the lowest address of a load, one below it, a load after a step, a load together with a step. -/
theorem witness_PulsePerformsOneOperation :
    let ld : PortsIn := ⟨false, true, 0x200, 7, false, 0, 0⟩
    ld.rst = false ∧ ld.ldWe = true ∧ Session.fresh.mayLoad = true ∧ ld.stepEn = false ∧ 0x200 ≤ ld.ldAddr.toNat ∧
    ({ ld with ldAddr := 0x1FF }).ldAddr.toNat < 0x200 ∧ ({ ld with stepEn := true }).stepEn = true ∧
    ((Session.fresh.move .step).map (fun q => q.1.mayLoad)) = some false ∧ ({ ld with rst := true }).rst = true := by decide
/-- A step on the port's keys: `E19E` with `V1` = 4 skips when bit 4 of `key` is 1; and no load is legal after it. -/
theorem test_pulse_step_then_load :
    let h : Session := { machine := (regs [(1, 4)]).withFetchWord 16 0xE19E, mayLoad := true }
    let h' := h.pulse ⟨false, false, 0, 0, true, 0x0010, 0⟩
    h'.map (fun q => q.machine.pc) = some 0x204 ∧
    h'.bind (fun q => q.pulse ⟨false, true, 0x300, 7, false, 0, 0⟩) = none := by decide
/-- The byte of the port `rand` reaches `Vx`: `C1F0` on 0xA7; none is held after the pulse. -/
theorem test_pulse_rand :
    let h : Session := { machine := State.reset.withFetchWord 16 0xC1F0, mayLoad := true }
    h.machine.status ≠ .halted ∧ h.machine.fetch? = some 0xC1F0 ∧ decodeWord 0xC1F0 = .rndVxNn 1 0xF0 ∧
    (h.pulse ⟨false, false, 0, 0, true, 0, 0xA7⟩).map (fun q => (q.machine.getV 1, q.machine.randIn, q.machine.randDraws)) =
      some (0xA0, none, 1) := by decide
/-- A step that executes another instruction drops the byte, which no counter counts. -/
theorem test_stepWith_drops_unused_byte :
    let h : Session := { machine := State.reset.withFetchWord 16 0x6005, mayLoad := true }
    (h.move (.stepWith 0x11)).map (fun q => (q.1.machine.getV 0, q.1.machine.randIn, q.1.machine.randDraws)) =
      some (0x05, none, 0) := by decide
/-- `rst` dominates a load that is not legal. -/
theorem test_pulse_rst : ({ machine := regs [(1, 4)], mayLoad := false } : Session).pulse ⟨true, true, 0, 0, true, 0, 0⟩ =
    some Session.fresh := by decide
/-- The invariant's premises meet: the fresh session pulses. -/
theorem witness_PulseKeepsInvariantAndPortsShowState :
    Session.fresh.Inv ∧ (Session.fresh.pulse ⟨false, true, 0xFFF, 7, false, 0, 0⟩).isSome = true ∧
    (Session.fresh.pulse ⟨false, false, 0, 0, true, 1, 0⟩).isSome = true :=
  ⟨witness_HostMovesKeepInvariant.1, by decide, by decide⟩

end Sys2Proof.Tests
end

namespace Sys2Proof.Machine

/-- Each of the three ends of an execute phase (`exec_ends`) is a next state: a fault is a Halted one (60_exceptions.md R224). -/
theorem exec_answers_next (i : Instr) (s : State) : ∃ t, exec i s = .next t := by
  rcases exec_ends i s with ⟨u, hcomplete, -⟩ | ⟨c, info, hfault⟩ | hhold
  · exact ⟨u.setStatus .running, hcomplete⟩
  · exact ⟨s.takeFault c info s.fetchedFrom, hfault⟩
  · exact ⟨(s.setPc s.fetchedFrom).setStatus .awaitingKey, hhold⟩

/-- Settles O43, by the three ways a step goes: a Halted state stays, a failing fetch takes its fault, and a fetched word
is executed. -/
theorem everyStepAnswersNextState : Obligations.EveryStepAnswersNextState := by
  intro s
  by_cases hhalted : s.status = .halted
  · exact ⟨s, step_halted s hhalted⟩
  cases hfetch : s.fetch? with
  | none => exact ⟨_, step_fetchFault s hhalted hfetch⟩
  | some op =>
    rw [step_exec s op hhalted hfetch]
    exact exec_answers_next _ _

end Sys2Proof.Machine

namespace Sys2Proof.Machine

/-! ### The frame of every instruction (10_state.md R20 to R33) -/

/-- As `Part.Same`, but of memory the data is the same, not only every byte. -/
def Part.SameData (s t : State) : Part → Prop
  | .mem => t.mem = s.mem
  | p => p.Same s t

/-- As `UnchangedExcept`, with memory kept as data. -/
def KeepsExcept (ps : List Part) (s t : State) : Prop := ∀ p, p ∉ ps → p.SameData s t

theorem Part.SameData.trans {s u t : State} {p : Part} (hsu : p.SameData s u) (hut : p.SameData u t) :
    p.SameData s t := by
  cases p <;> exact Eq.trans hut hsu

theorem Part.SameData.same {s t : State} {p : Part} (h : p.SameData s t) : p.Same s t := by
  cases p with
  | mem => exact fun a => congrArg (fun m => Memory.read m a) h
  | _ => exact h

theorem KeepsExcept.unchangedExcept {ps : List Part} {s t : State} (h : KeepsExcept ps s t) : UnchangedExcept ps s t :=
  fun p hp => (h p hp).same

theorem KeepsExcept.trans {ps qs : List Part} {s u t : State} (hsu : KeepsExcept ps s u) (hut : KeepsExcept qs u t) :
    KeepsExcept (ps ++ qs) s t := by
  intro p hp
  rw [List.mem_append, not_or] at hp
  exact (hsu p hp.1).trans (hut p hp.2)

theorem KeepsExcept.mono {ps qs : List Part} {s t : State} (h : KeepsExcept ps s t) (hsub : ps ⊆ qs) :
    KeepsExcept qs s t :=
  fun p hp => h p fun hps => hp (hsub hps)

/-! One rule per update of the state: the parts it may change. -/

section
variable (s : State)

theorem keepsExcept_refl : KeepsExcept [] s s := by
  intro p _
  cases p <;> exact rfl

theorem keepsExcept_setMem (m : Memory) : KeepsExcept [.mem] s (s.setMem m) := by
  intro p hp
  cases p with
  | mem => simp at hp
  | _ => exact rfl

theorem keepsExcept_setI (x : Word) : KeepsExcept [.i] s (s.setI x) := by
  intro p hp
  cases p with
  | i => simp at hp
  | _ => exact rfl

theorem keepsExcept_setPc (x : Word) : KeepsExcept [.pc] s (s.setPc x) := by
  intro p hp
  cases p with
  | pc => simp at hp
  | _ => exact rfl

theorem keepsExcept_setStack (x : List Word) : KeepsExcept [.stack] s (s.setStack x) := by
  intro p hp
  cases p with
  | stack => simp at hp
  | _ => exact rfl

theorem keepsExcept_setDt (b : Byte) : KeepsExcept [.dt] s (s.setDt b) := by
  intro p hp
  cases p with
  | dt => simp at hp
  | _ => exact rfl

theorem keepsExcept_setSt (b : Byte) : KeepsExcept [.st] s (s.setSt b) := by
  intro p hp
  cases p with
  | st => simp at hp
  | _ => exact rfl

theorem keepsExcept_setDisp (d : Display) : KeepsExcept [.disp] s (s.setDisp d) := by
  intro p hp
  cases p with
  | disp => simp at hp
  | _ => exact rfl

theorem keepsExcept_setStatus (x : RunStatus) : KeepsExcept [.status] s (s.setStatus x) := by
  intro p hp
  cases p with
  | status => simp at hp
  | _ => exact rfl

theorem keepsExcept_usedRand : KeepsExcept [.randDraws, .randIn] s s.usedRand := by
  intro p hp
  cases p with
  | randDraws | randIn => simp at hp
  | _ => exact rfl

theorem keepsExcept_usedKeyDraw : KeepsExcept [.keyDraws] s s.usedKeyDraw := by
  intro p hp
  cases p with
  | keyDraws => simp at hp
  | _ => exact rfl

theorem keepsExcept_setV (x : RegIdx) (b : Byte) : KeepsExcept [.v x] s (s.setV x b) := by
  intro p hp
  cases p with
  | v y => exact s.getV_setV_ne x y b (by simpa using hp)
  | _ => exact rfl

theorem keepsExcept_takeFault (c : Cause) (info a : Word) :
    KeepsExcept [.pc, .status, .cause, .faddr] s (s.takeFault c info a) := by
  intro p hp
  cases p with
  | pc | status | cause | faddr => simp at hp
  | _ => exact rfl

theorem keepsExcept_setResultAndFlag (x : RegIdx) (b : Byte) (f : Bool) :
    KeepsExcept [.v x, .v vf] s (s.setResultAndFlag x b f) :=
  (keepsExcept_setV s x b).trans (keepsExcept_setV _ vf (flagByte f))

theorem keepsExcept_skipIf (c : Bool) : KeepsExcept [.pc] s (s.skipIf c) := by
  cases c with
  | false => exact (keepsExcept_refl s).mono (List.nil_subset _)
  | true => exact keepsExcept_setPc s _

/-- `V[0]` to `V[n-1]`, the destinations of `Fx65` (43_index_memory.md R157). -/
def firstRegisters (n : Nat) : List Part := (List.range n).map fun k => .v (BitVec.ofNat 4 k)

theorem keepsExcept_loadV (n : Nat) : KeepsExcept (firstRegisters n) s (s.loadV n) := by
  induction n with
  | zero => exact keepsExcept_refl s
  | succ k ih =>
    rw [firstRegisters, List.range_succ, List.map_append]
    exact ih.trans (keepsExcept_setV _ _ _)

end

/-- Every state in which the execute phase may end has changed only the given parts, `PC`, and the run status with its
fault record. -/
def EndsKeepingExcept (ps : List Part) (s : State) (o : Host.Outcome State Fault Refusal) : Prop :=
  ∀ t, o = .next t → KeepsExcept (ps ++ [.pc, .status, .cause, .faddr]) s t

theorem endsKeepingExcept_next {ps qs : List Part} {s t : State} (h : KeepsExcept (ps ++ qs) s t)
    (hsub : qs ⊆ [.pc, .status, .cause, .faddr]) : EndsKeepingExcept ps s (.next t) := by
  intro t' ht
  cases ht
  exact h.mono (List.append_subset.2 ⟨List.subset_append_left _ _, List.subset_append_of_subset_right _ hsub⟩)

theorem endsKeepingExcept_complete {ps : List Part} {s u : State} (h : KeepsExcept ps s u) :
    EndsKeepingExcept ps s (complete u) :=
  endsKeepingExcept_next (h.trans (keepsExcept_setStatus u .running)) (by simp)

theorem endsKeepingExcept_raiseFault (ps : List Part) (c : Cause) (info : Word) (s : State) :
    EndsKeepingExcept ps s (raiseFault c info s) :=
  endsKeepingExcept_next ((keepsExcept_takeFault s c info s.fetchedFrom).mono (List.subset_append_right ps _))
    (List.Subset.refl _)

theorem endsKeepingExcept_hold (ps : List Part) (s : State) : EndsKeepingExcept ps s (hold s) :=
  endsKeepingExcept_next (qs := [.pc, .status])
    (((keepsExcept_setPc s s.fetchedFrom).trans (keepsExcept_setStatus _ .awaitingKey)).mono
      (List.subset_append_right ps _))
    (by simp)

theorem endsKeepingExcept_withRange {ps : List Part} {s : State} (len : Nat)
    {k : State → Host.Outcome State Fault Refusal} (hk : EndsKeepingExcept ps s (k s)) :
    EndsKeepingExcept ps s (withRange len k s) := by
  unfold withRange
  split
  · exact hk
  · exact endsKeepingExcept_raiseFault ps _ _ s

theorem endsKeepingExcept_withKey {ps : List Part} {s : State} (x : RegIdx)
    {k : Bool → State → Host.Outcome State Fault Refusal} (hk : ∀ b, EndsKeepingExcept ps s (k b s)) :
    EndsKeepingExcept ps s (withKey x k s) := by
  unfold withKey
  split
  · exact hk _
  · exact endsKeepingExcept_raiseFault ps _ _ s

end Sys2Proof.Machine

namespace Sys2Proof

open Machine

/-- The parts an instruction writes where it completes, beside the run status (the writers named by 10_state.md R20 to R33). -/
def Instr.writes : Instr → List Part
  | .cls => [.disp]
  | .ret | .call _ => [.stack, .pc]
  | .jp _ | .jpV0Nnn _ | .seVxNn _ _ | .sneVxNn _ _ | .seVxVy _ _ | .sneVxVy _ _ | .skpVx _ | .sknpVx _ => [.pc]
  | .ldVxNn x _ | .addVxNn x _ | .ldVxVy x _ | .orVxVy x _ | .andVxVy x _ | .xorVxVy x _ | .ldVxDt x => [.v x]
  | .addVxVy x _ | .subVxVy x _ | .shrVx x _ | .subnVxVy x _ | .shlVx x _ => [.v x, .v vf]
  | .rndVxNn x _ => [.v x, .randDraws, .randIn]
  | .ldVxK x => [.v x, .keyDraws]
  | .ldVxMem x => firstRegisters (x.toNat + 1)
  | .ldINnn _ | .ldFVx _ => [.i]
  | .addIVx _ => [.i, .v vf]
  | .ldDtVx _ => [.dt]
  | .ldStVx _ => [.st]
  | .drwVxVyN _ _ _ => [.disp, .v vf]
  | .ldBVx _ | .ldMemVx _ => [.mem]
  | .unrecognized _ => []

end Sys2Proof

namespace Sys2Proof.Machine

/-- What an instruction leaves unchanged, for all of them: every part it is not given to write, but for `PC` and the run
status with its fault record. -/
theorem exec_endsKeepingExcept_writes (i : Instr) (s : State) : EndsKeepingExcept i.writes s (exec i s) := by
  cases i with
  | cls => exact endsKeepingExcept_complete (keepsExcept_setDisp s _)
  | ret =>
    simp only [exec, execRet]
    split
    · exact endsKeepingExcept_raiseFault _ _ _ s
    · exact endsKeepingExcept_complete ((keepsExcept_setStack s _).trans (keepsExcept_setPc _ _))
  | call nnn =>
    simp only [exec, execCall]
    split
    · exact endsKeepingExcept_complete ((keepsExcept_setStack s _).trans (keepsExcept_setPc _ _))
    · exact endsKeepingExcept_raiseFault _ _ _ s
  | jp | jpV0Nnn => exact endsKeepingExcept_complete (keepsExcept_setPc s _)
  | seVxNn | sneVxNn | seVxVy | sneVxVy => exact endsKeepingExcept_complete (keepsExcept_skipIf s _)
  | skpVx x | sknpVx x =>
    exact endsKeepingExcept_withKey x fun b => endsKeepingExcept_complete (keepsExcept_skipIf s _)
  | ldVxNn x | addVxNn x | ldVxVy x | orVxVy x | andVxVy x | xorVxVy x | ldVxDt x =>
    exact endsKeepingExcept_complete (keepsExcept_setV s x _)
  | addVxVy x | subVxVy x | shrVx x | subnVxVy x | shlVx x =>
    exact endsKeepingExcept_complete (keepsExcept_setResultAndFlag s x _ _)
  | rndVxNn x nn => exact endsKeepingExcept_complete ((keepsExcept_setV s x _).trans (keepsExcept_usedRand _))
  | ldVxK x =>
    simp only [exec, execLdVxK]
    split
    · exact endsKeepingExcept_hold _ s
    · exact endsKeepingExcept_complete ((keepsExcept_setV s x _).trans (keepsExcept_usedKeyDraw _))
  | ldINnn | ldFVx => exact endsKeepingExcept_complete (keepsExcept_setI s _)
  | addIVx x => exact endsKeepingExcept_complete ((keepsExcept_setI s _).trans (keepsExcept_setV _ vf _))
  | ldDtVx => exact endsKeepingExcept_complete (keepsExcept_setDt s _)
  | ldStVx => exact endsKeepingExcept_complete (keepsExcept_setSt s _)
  | drwVxVyN =>
    exact endsKeepingExcept_withRange _ (endsKeepingExcept_complete
      ((keepsExcept_setDisp s _).trans (keepsExcept_setV _ vf _)))
  | ldBVx | ldMemVx => exact endsKeepingExcept_withRange _ (endsKeepingExcept_complete (keepsExcept_setMem s _))
  | ldVxMem x => exact endsKeepingExcept_withRange _ (endsKeepingExcept_complete (keepsExcept_loadV s _))
  | unrecognized => exact endsKeepingExcept_complete (keepsExcept_refl s)

/-- A part outside what the instruction writes, `PC` and the run status with its fault record holds what it held. -/
theorem exec_keeps_part {i : Instr} {s t : State} {p : Part} (h : exec i s = .next t) (hp : p ∉ i.writes)
    (hctl : p ∉ [Part.pc, .status, .cause, .faddr]) : p.SameData s t :=
  exec_endsKeepingExcept_writes i s t h p (List.mem_append.not.2 (not_or.2 ⟨hp, hctl⟩))

end Sys2Proof.Machine

namespace Sys2Proof.Machine

/-- The only writers of a part are the instructions given to write it. -/
theorem exec_writer {i : Instr} {s t : State} {p : Part} (h : exec i s = .next t)
    (hctl : p ∉ [Part.pc, .status, .cause, .faddr]) (hne : ¬ p.SameData s t) : p ∈ i.writes :=
  by_contra fun hp => hne (exec_keeps_part h hp hctl)

end Sys2Proof.Machine

namespace Sys2Proof

open Machine

/-! The writers of each part, read off the list (10_state.md R24 to R33, 20_memory.md R58). -/

section
variable {i : Instr}

theorem Instr.writer_i (h : .i ∈ i.writes) :
    (∃ nnn, i = .ldINnn nnn) ∨ (∃ x, i = .addIVx x) ∨ ∃ x, i = .ldFVx x := by
  cases i with
  | ldINnn nnn => exact .inl ⟨nnn, rfl⟩
  | addIVx x => exact .inr (.inl ⟨x, rfl⟩)
  | ldFVx x => exact .inr (.inr ⟨x, rfl⟩)
  | _ => simp [Instr.writes, firstRegisters] at h

theorem Instr.writer_stack (h : .stack ∈ i.writes) : (∃ nnn, i = .call nnn) ∨ i = .ret := by
  cases i with
  | call nnn => exact .inl ⟨nnn, rfl⟩
  | ret => exact .inr rfl
  | _ => simp [Instr.writes, firstRegisters] at h

theorem Instr.writer_dt (h : .dt ∈ i.writes) : ∃ x, i = .ldDtVx x := by
  cases i with
  | ldDtVx x => exact ⟨x, rfl⟩
  | _ => simp [Instr.writes, firstRegisters] at h

theorem Instr.writer_st (h : .st ∈ i.writes) : ∃ x, i = .ldStVx x := by
  cases i with
  | ldStVx x => exact ⟨x, rfl⟩
  | _ => simp [Instr.writes, firstRegisters] at h

theorem Instr.writer_disp (h : .disp ∈ i.writes) : i = .cls ∨ ∃ x y n, i = .drwVxVyN x y n := by
  cases i with
  | cls => exact .inl rfl
  | drwVxVyN x y n => exact .inr ⟨x, y, n, rfl⟩
  | _ => simp [Instr.writes, firstRegisters] at h

theorem Instr.writer_mem (h : .mem ∈ i.writes) : (∃ x, i = .ldBVx x) ∨ ∃ x, i = .ldMemVx x := by
  cases i with
  | ldBVx x => exact .inl ⟨x, rfl⟩
  | ldMemVx x => exact .inr ⟨x, rfl⟩
  | _ => simp [Instr.writes, firstRegisters] at h

theorem Instr.keys_not_mem_writes : .keys ∉ i.writes := by
  cases i <;> simp [Instr.writes, firstRegisters]

/-- A register is written as a named destination or, VF, as a flag (10_state.md R21, R22). -/
theorem Instr.writer_v {r : RegIdx} (h : .v r ∈ i.writes) :
    i.namesDestination r = true ∨ (r = vf ∧ i.writesFlag = true) := by
  cases i with
  | ldVxNn x _ | addVxNn x _ | ldVxVy x _ | orVxVy x _ | andVxVy x _ | xorVxVy x _ | ldVxDt x | rndVxNn x _ | ldVxK x =>
    exact .inl (by simpa [Instr.writes, Instr.namesDestination] using h)
  | addVxVy x _ | subVxVy x _ | shrVx x _ | subnVxVy x _ | shlVx x _ =>
    simpa [Instr.writes, Instr.namesDestination, Instr.writesFlag] using h
  | addIVx | drwVxVyN => exact .inr ⟨by simpa [Instr.writes] using h, rfl⟩
  | ldVxMem x =>
    obtain ⟨k, hk, rfl⟩ : ∃ k < x.toNat + 1, BitVec.ofNat 4 k = r := by
      simpa [Instr.writes, firstRegisters] using h
    have hle : k % 16 ≤ x.toNat := (Nat.mod_le k 16).trans (Nat.le_of_lt_succ hk)
    exact .inl (by simpa [Instr.namesDestination] using hle)
  | _ => simp [Instr.writes] at h

end

end Sys2Proof

namespace Sys2Proof.Machine

/-- Settles O45: a part that changed is one the instruction is given to write. -/
theorem eachPartHasOnlyItsWriters : Obligations.EachPartHasOnlyItsWriters := by
  intro i s t h
  exact ⟨fun hne => Instr.writer_i (exec_writer (p := .i) h (by simp) hne),
    fun hne => Instr.writer_stack (exec_writer (p := .stack) h (by simp) hne),
    fun hne => Instr.writer_dt (exec_writer (p := .dt) h (by simp) hne),
    fun hne => Instr.writer_st (exec_writer (p := .st) h (by simp) hne),
    fun hne => Instr.writer_disp (exec_writer (p := .disp) h (by simp) hne),
    fun hne => Instr.writer_mem (exec_writer (p := .mem) h (by simp) hne),
    exec_keeps_part (p := .keys) h Instr.keys_not_mem_writes (by simp)⟩

/-! ### Flags -/

/-- A range-checked access goes on or takes its fault (43_index_memory.md R153). -/
theorem withRange_next {len : Nat} {k : State → Host.Outcome State Fault Refusal} {s t : State}
    (h : withRange len k s = .next t) : k s = .next t ∨ t = s.takeFault .memoryAccess 0x1000 s.fetchedFrom := by
  unfold withRange at h
  split at h
  · exact .inl h
  · exact .inr (Host.Outcome.next.inj h).symm

theorem flagByte_eq_zero_or_one (f : Bool) : flagByte f = 0 ∨ flagByte f = 1 := by
  cases f <;> simp [flagByte]

/-- A flag instruction that does not fault leaves a flag in VF, written last (10_state.md R22, R23). -/
theorem exec_flag {i : Instr} {s t : State} (h : exec i s = .next t) (hflag : i.writesFlag = true)
    (hrunning : t.status = .running) : ∃ f, t.getV vf = flagByte f := by
  cases i with
  | addVxVy | subVxVy | shrVx | subnVxVy | shlVx | addIVx =>
    cases h
    exact ⟨_, State.getV_setV_same _ vf _⟩
  | drwVxVyN x y n =>
    rcases withRange_next h with hdrawn | rfl
    · cases hdrawn
      exact ⟨_, State.getV_setV_same _ vf _⟩
    · cases hrunning
  | _ => cases hflag

/-- Settles O44: the first half by the frame of every instruction, the second by what the flag instructions write last. -/
theorem registersChangeOnlyAsDestinationOrFlag : Obligations.RegistersChangeOnlyAsDestinationOrFlag := by
  refine ⟨fun i s t r h hdest hflag => ?_, fun i s t h hflag hrunning => ?_⟩
  · refine exec_keeps_part (p := .v r) h (fun hw => ?_) (by simp)
    rcases Instr.writer_v hw with hnamed | ⟨hvf, hwrites⟩
    · simp [hdest] at hnamed
    · simp [hflag hvf] at hwrites
  · obtain ⟨f, hf⟩ := exec_flag h hflag hrunning
    exact hf ▸ flagByte_eq_zero_or_one f

end Sys2Proof.Machine

namespace Sys2Proof.Machine

/-! ### What no instruction reads: the keypad, the sound timer, the display (10_state.md R30, R32, R33) -/

/-- Change the keypad, the sound timer and the display, each on its own. -/
def State.mapPeripherals (fk : Vector Bool Config.numKeys → Vector Bool Config.numKeys) (fs : Byte → Byte)
    (fd : Display → Display) (s : State) : State :=
  { s with keys := fk s.keys, st := fs s.st, disp := fd s.disp }

theorem State.setKeys_eq_mapPeripherals (s : State) (ks : Vector Bool Config.numKeys) :
    s.setKeys ks = s.mapPeripherals (fun _ => ks) id id := rfl

theorem State.setSt_eq_mapPeripherals (s : State) (b : Byte) : s.setSt b = s.mapPeripherals id (fun _ => b) id := rfl

theorem State.setDisp_eq_mapPeripherals (s : State) (d : Display) :
    s.setDisp d = s.mapPeripherals id id (fun _ => d) := rfl

section
variable (fk : Vector Bool Config.numKeys → Vector Bool Config.numKeys) (fs : Byte → Byte) (fd : Display → Display)

theorem State.skipIf_mapPeripherals (s : State) (c : Bool) :
    (s.mapPeripherals fk fs fd).skipIf c = (s.skipIf c).mapPeripherals fk fs fd := by
  cases c <;> rfl

theorem State.loadV_mapPeripherals (s : State) (n : Nat) :
    (s.mapPeripherals fk fs fd).loadV n = (s.loadV n).mapPeripherals fk fs fd := by
  induction n with
  | zero => rfl
  | succ k ih =>
    rw [State.loadV, ih]
    simp [State.loadV, State.mapPeripherals, State.setV]

theorem complete_mapPeripherals (u : State) :
    complete (u.mapPeripherals fk fs fd) = onNext (State.mapPeripherals fk fs fd) (complete u) := rfl

theorem withRange_mapPeripherals (s : State) (len : Nat) (k : State → Host.Outcome State Fault Refusal)
    (hk : k (s.mapPeripherals fk fs fd) = onNext (State.mapPeripherals fk fs fd) (k s)) :
    withRange len k (s.mapPeripherals fk fs fd) = onNext (State.mapPeripherals fk fs fd) (withRange len k s) := by
  have hsame : (s.mapPeripherals fk fs fd).inMemory len = s.inMemory len := rfl
  unfold withRange
  rw [hsame]
  split
  · exact hk
  · rfl

theorem withKey_mapPeripherals (s : State) (x : RegIdx) (k : Bool → State → Host.Outcome State Fault Refusal)
    (hk : ∀ b, k b (s.mapPeripherals id fs fd) = onNext (State.mapPeripherals id fs fd) (k b s)) :
    withKey x k (s.mapPeripherals id fs fd) = onNext (State.mapPeripherals id fs fd) (withKey x k s) := by
  have hsame : (s.mapPeripherals id fs fd).getV x = s.getV x := rfl
  unfold withKey
  rw [hsame]
  split
  · exact hk _
  · rfl

/-- An instruction that neither reads nor writes a peripheral acts the same whatever that holds, and keeps it. -/
theorem exec_mapPeripherals (i : Instr) (s : State) (hkeys : i.readsKeys = true → fk = id)
    (hst : (∃ x, i = .ldStVx x) → fs = id) (hdisp : (i = .cls ∨ ∃ x y n, i = .drwVxVyN x y n) → fd = id) :
    exec i (s.mapPeripherals fk fs fd) = onNext (State.mapPeripherals fk fs fd) (exec i s) := by
  cases i with
  | cls =>
    obtain rfl := hdisp (.inl rfl)
    rfl
  | drwVxVyN x y n =>
    obtain rfl := hdisp (.inr ⟨x, y, n, rfl⟩)
    exact withRange_mapPeripherals fk fs id s _ _ rfl
  | ldStVx x =>
    obtain rfl := hst ⟨x, rfl⟩
    rfl
  | skpVx x =>
    obtain rfl := hkeys rfl
    exact withKey_mapPeripherals fs fd s x _ fun b =>
      congrArg complete (State.skipIf_mapPeripherals id fs fd s b)
  | sknpVx x =>
    obtain rfl := hkeys rfl
    exact withKey_mapPeripherals fs fd s x _ fun b =>
      congrArg complete (State.skipIf_mapPeripherals id fs fd s !b)
  | ldVxK x =>
    obtain rfl := hkeys rfl
    have hsame : (s.mapPeripherals id fs fd).chooseKey? = s.chooseKey? := rfl
    simp only [exec, execLdVxK, hsame]
    cases s.chooseKey? <;> rfl
  | ret =>
    have hsame : (s.mapPeripherals fk fs fd).stack = s.stack := rfl
    simp only [exec, execRet, hsame]
    cases s.stack <;> rfl
  | call nnn =>
    have hsame : (s.mapPeripherals fk fs fd).sp = s.sp := rfl
    simp only [exec, execCall, hsame]
    split <;> rfl
  | seVxNn | sneVxNn | seVxVy | sneVxVy => exact congrArg complete (State.skipIf_mapPeripherals fk fs fd s _)
  | ldBVx | ldMemVx => exact withRange_mapPeripherals fk fs fd s _ _ rfl
  | ldVxMem x =>
    exact withRange_mapPeripherals fk fs fd s _ _ (congrArg complete (State.loadV_mapPeripherals fk fs fd s _))
  | _ => rfl

end

/-- Settles O47: of the peripherals only the keypad is changed. -/
theorem keypadIsReadOnlyByKeyInstructions : Obligations.KeypadIsReadOnlyByKeyInstructions := by
  intro i s ks hreads
  simp only [State.setKeys_eq_mapPeripherals]
  exact exec_mapPeripherals (fun _ => ks) id id i s (by simp [hreads]) (fun _ => rfl) (fun _ => rfl)

/-- Settles O48: of the peripherals only the sound timer is changed, and `Fx18` overwrites it. -/
theorem soundTimerIsNeverRead : Obligations.SoundTimerIsNeverRead := by
  refine fun i s b => ⟨fun hwriter => ?_, ?_⟩
  · simp only [State.setSt_eq_mapPeripherals]
    exact exec_mapPeripherals id (fun _ => b) id i s (fun _ => rfl) (fun ⟨x, hx⟩ => (hwriter x hx).elim) (fun _ => rfl)
  · rintro x rfl
    rfl

/-- A drawing on another display ends in the same state but for what it writes to the display and VF. -/
theorem drawAt_setDisp {x y : RegIdx} {n : Nibble} {s t u : State} (d : Display) (ht : drawAt x y n s = .next t)
    (hu : drawAt x y n (s.setDisp d) = .next u) : KeepsExcept [.disp, .v vf] t u := by
  cases ht
  cases hu
  have hsecond : ∀ (d₁ d₂ : Display) (b₁ b₂ : Byte),
      (((s.setDisp d).setDisp d₂).setV vf b₂).setStatus .running =
        ((((s.setDisp d₁).setV vf b₁).setStatus .running).setDisp d₂).setV vf b₂ := by
    intro d₁ d₂ b₁ b₂
    simp [State.setDisp, State.setV, State.setStatus]
  rw [hsecond]
  exact (keepsExcept_setDisp _ _).trans (keepsExcept_setV _ vf _)

/-- `Dxyn` draws or faults alike on both displays. -/
theorem execDrwVxVyN_setDisp {x y : RegIdx} {n : Nibble} {s t u : State} (d : Display)
    (ht : exec (.drwVxVyN x y n) s = .next t) (hu : exec (.drwVxVyN x y n) (s.setDisp d) = .next u) :
    KeepsExcept [.disp, .v vf] t u := by
  have hsame : (s.setDisp d).inMemory n.toNat = s.inMemory n.toNat := rfl
  simp only [exec, execDrwVxVyN, withRange, hsame] at ht hu
  by_cases hin : s.inMemory n.toNat = true
  · rw [if_pos hin] at ht hu
    exact drawAt_setDisp d ht hu
  · rw [if_neg hin] at ht hu
    cases ht
    cases hu
    exact (keepsExcept_setDisp (s.takeFault .memoryAccess memoryFaultDatum s.fetchedFrom) d).mono (by simp)

/-- Settles O49: of the peripherals only the display is changed, `00E0` overwrites it, and `Dxyn` uses it for what it writes. -/
theorem displayIsReadOnlyForCollision : Obligations.DisplayIsReadOnlyForCollision := by
  refine fun i s d => ⟨fun hdrw hcls => ?_, rfl, ?_⟩
  · simp only [State.setDisp_eq_mapPeripherals]
    exact exec_mapPeripherals id id (fun _ => d) i s (fun _ => rfl) (fun _ => rfl) (by
      rintro (h | ⟨x, y, n, h⟩)
      · exact (hcls h).elim
      · exact (hdrw x y n h).elim)
  · rintro x y n t u rfl ht hu
    exact (execDrwVxVyN_setDisp d ht hu).unchangedExcept

end Sys2Proof.Machine

namespace Sys2Proof.Machine

/-! ### The tables of 60_exceptions.md R221 and 10_state.md R26 -/

/-- In the execute phase of a step a fault is taken at the old `PC` (60_exceptions.md R225). -/
theorem takeFault_advance (s : State) (c : Cause) (info : Word) :
    s.advance.takeFault c info s.advance.fetchedFrom = s.takeFault c info s.pc := by
  rw [State.fetchedFrom_advance]
  rfl

/-- What a row of the fault table says of a fault it gives. -/
theorem faultRow_eq_some {p : Prop} [Decidable p] {c c' : Cause} {info info' : Word}
    (h : (if p then some (c, info) else none) = some (c', info')) : p ∧ c = c' ∧ info = info' := by
  simpa using h

/-- What a row of the fault table says where it gives none. -/
theorem faultRow_eq_none {p : Prop} [Decidable p] {f : Cause × Word} (h : (if p then some f else none) = none) : ¬ p := by
  simpa using h

/-- Where the table gives a fault, the execute phase takes it and does nothing else (60_exceptions.md R224). -/
theorem exec_of_executeFault?_some {s : State} {op : Word} {c : Cause} {info : Word}
    (h : s.executeFault? op = some (c, info)) :
    exec (decodeWord op) s.tick.advance = .next (s.tick.takeFault c info s.pc) := by
  rw [← State.tick_pc, ← takeFault_advance]
  cases hi : decodeWord op with
  | ret =>
    simp only [State.executeFault?, hi] at h
    obtain ⟨hempty, rfl, rfl⟩ := faultRow_eq_some h
    have hstack : s.tick.advance.stack = [] := List.eq_nil_of_length_eq_zero hempty
    simp only [exec, execRet, hstack, State.fetchedFrom_advance]
    simp [raiseFault]
  | call nnn =>
    simp only [State.executeFault?, hi] at h
    obtain ⟨hfull, rfl, rfl⟩ := faultRow_eq_some h
    have hno : ¬ s.tick.advance.sp < Config.stackCapacity := Nat.not_lt.2 hfull
    simp only [exec, execCall, if_neg hno, State.fetchedFrom_advance]
    simp [raiseFault]
  | ldBVx x =>
    simp only [State.executeFault?, hi] at h
    obtain ⟨hout, rfl, rfl⟩ := faultRow_eq_some h
    exact withRange_outside _ 3 _ (by simp) (Nat.succ_lt_succ hout)
  | ldMemVx x | ldVxMem x =>
    simp only [State.executeFault?, hi] at h
    obtain ⟨hout, rfl, rfl⟩ := faultRow_eq_some h
    exact withRange_outside _ (x.toNat + 1) _ (by simp) (Nat.succ_lt_succ hout)
  | drwVxVyN x y n =>
    simp only [State.executeFault?, hi] at h
    obtain ⟨⟨hpos, hout⟩, rfl, rfl⟩ := faultRow_eq_some h
    exact withRange_outside _ n.toNat _ (by omega) (by simp; omega)
  | skpVx x | sknpVx x =>
    simp only [State.executeFault?, hi] at h
    obtain ⟨hbig, rfl, rfl⟩ := faultRow_eq_some h
    exact withKey_illegal _ x _ hbig
  | _ => simp [State.executeFault?, hi] at h

/-- How a step that fetched `i` ends without a fault: `PC` by the table of 10_state.md R26, and the machine runs, or waits
at that `Fx0A` (40_step_cycle.md R101). -/
structure EndsByTable (s : State) (i : Instr) (t : State) : Prop where
  pc : t.pc = s.pcAfter i
  status : t.status = .running ∨ (t.status = .awaitingKey ∧ t.pc = s.pc ∧ ∃ x, i = .ldVxK x)

theorem endsByTable_complete {s u : State} {i : Instr} (hpc : u.pc = s.pcAfter i) :
    ∃ t, complete u = .next t ∧ EndsByTable s i t :=
  ⟨u.setStatus .running, rfl, hpc, .inl rfl⟩

theorem endsByTable_withRange {s : State} {i : Instr} {len : Nat} {k : State → Host.Outcome State Fault Refusal}
    (hin : len = 0 ∨ s.i.toNat + len ≤ 4096) (hk : ∃ t, k s.tick.advance = .next t ∧ EndsByTable s i t) :
    ∃ t, withRange len k s.tick.advance = .next t ∧ EndsByTable s i t := by
  rwa [withRange_inside s.tick.advance len k hin]

theorem endsByTable_withKey {s : State} {i : Instr} {x : RegIdx} {k : Bool → State → Host.Outcome State Fault Refusal}
    (hlegal : (s.getV x).toNat ≤ 15)
    (hk : ∃ t, k (s.key (s.getV x).toNat) s.tick.advance = .next t ∧ EndsByTable s i t) :
    ∃ t, withKey x k s.tick.advance = .next t ∧ EndsByTable s i t := by
  rw [withKey_legal s.tick.advance x k hlegal]
  exact hk

/-- A skip in the execute phase of a step (41_control_flow.md R118). -/
theorem skipIf_tick_advance_pc (s : State) (c : Bool) :
    (s.tick.advance.skipIf c).pc = if c then s.pc + 4 else s.pc + 2 := by
  rw [State.skipIf_pc, State.advance_pc, State.tick_pc, BitVec.add_assoc]
  rfl

theorem skipIf_decide_tick_advance_pc (s : State) (p : Prop) [Decidable p] :
    (s.tick.advance.skipIf (decide p)).pc = if p then s.pc + 4 else s.pc + 2 := by
  simp only [skipIf_tick_advance_pc, decide_eq_true_eq]

theorem skipIf_not_tick_advance_pc (s : State) (c : Bool) :
    (s.tick.advance.skipIf (!c)).pc = if c then s.pc + 2 else s.pc + 4 := by
  rw [skipIf_tick_advance_pc]
  cases c <;> rfl

/-- Where the table gives no fault, the execute phase ends by the table of 10_state.md R26. -/
theorem exec_of_executeFault?_none {s : State} {op : Word} (h : s.executeFault? op = none) :
    ∃ t, exec (decodeWord op) s.tick.advance = .next t ∧ EndsByTable s (decodeWord op) t := by
  cases hi : decodeWord op with
  | ret =>
    simp only [State.executeFault?, hi] at h
    have hdepth := faultRow_eq_none h
    cases hstack : s.stack with
    | nil => exact absurd (congrArg List.length hstack) hdepth
    | cons top rest =>
      simp only [exec, execRet, State.advance_stack, State.tick_stack, hstack]
      exact endsByTable_complete (by simp [State.pcAfter, hstack])
  | call nnn =>
    simp only [State.executeFault?, hi] at h
    have hroom : s.tick.advance.sp < Config.stackCapacity := Nat.not_le.1 (faultRow_eq_none h)
    simp only [exec, execCall, if_pos hroom]
    exact endsByTable_complete rfl
  | ldBVx x | ldMemVx x =>
    simp only [State.executeFault?, hi] at h
    have hin := faultRow_eq_none h
    exact endsByTable_withRange (.inr (by omega)) (endsByTable_complete rfl)
  | ldVxMem x =>
    simp only [State.executeFault?, hi] at h
    have hin := faultRow_eq_none h
    exact endsByTable_withRange (.inr (by omega)) (endsByTable_complete (State.loadV_pc _ _))
  | drwVxVyN x y n =>
    simp only [State.executeFault?, hi] at h
    have hin := faultRow_eq_none h
    exact endsByTable_withRange (by omega) (endsByTable_complete rfl)
  | skpVx x =>
    simp only [State.executeFault?, hi] at h
    exact endsByTable_withKey (Nat.not_lt.1 (faultRow_eq_none h)) (endsByTable_complete (skipIf_tick_advance_pc s _))
  | sknpVx x =>
    simp only [State.executeFault?, hi] at h
    exact endsByTable_withKey (Nat.not_lt.1 (faultRow_eq_none h)) (endsByTable_complete (skipIf_not_tick_advance_pc s _))
  | ldVxK x =>
    have hsame : s.tick.advance.chooseKey? = s.chooseKey? := rfl
    simp only [exec, execLdVxK, hsame]
    cases hkey : s.chooseKey? with
    | none =>
      have hnone := s.chooseKey?_none.1 hkey
      refine ⟨_, rfl, ?_, .inr ⟨rfl, ?_, x, rfl⟩⟩ <;> simp [State.pcAfter, hnone]
    | some k =>
      have hsome : s.pressed ≠ [] := List.ne_nil_of_mem (s.chooseKey?_mem k hkey)
      exact endsByTable_complete (by simp [State.pcAfter, hsome])
  | seVxNn | seVxVy => exact endsByTable_complete (skipIf_decide_tick_advance_pc s _)
  | sneVxNn | sneVxVy => exact endsByTable_complete ((skipIf_decide_tick_advance_pc s _).trans (ite_not _ _ _))
  | _ => exact endsByTable_complete rfl

/-- Settles O41: a fault is taken at the old `PC`, and every other end is by the table. -/
theorem pcAfterStepFollowsTable : Obligations.PcAfterStepFollowsTable := by
  intro s op hrun hfetch
  rw [step_exec s op hrun hfetch]
  cases hfault : s.executeFault? op with
  | some f => exact ⟨_, exec_of_executeFault?_some hfault, rfl⟩
  | none =>
    obtain ⟨t, hexec, hend⟩ := exec_of_executeFault?_none hfault
    exact ⟨t, hexec, hend.pc⟩

/-! ### The glyph address and the font (10_state.md R41, 43_index_memory.md R152) -/

theorem State.glyphAddress_toNat (s : State) (x : RegIdx) :
    (s.glyphAddress x).toNat = 0x050 + 5 * ((s.getV x).toNat % 16) := by
  simp only [State.glyphAddress, Config.fontBase, Config.glyphBytes, BitVec.toNat_ofNat]
  omega

/-- Settles O27: the five bytes from the glyph's address lie in the font region. -/
theorem glyphBytesAreFontRom : Obligations.GlyphBytesAreFontRom := by
  intro x s hfont
  refine ⟨_, rfl, fun r hr => ?_⟩
  have haddr : (s.glyphAddress x).toNat + r = 0x050 + (5 * ((s.getV x).toNat % 16) + r) := by
    rw [State.glyphAddress_toNat, Nat.add_assoc]
  show s.mem.read ((s.glyphAddress x).toNat + r) = _
  rw [haddr, hfont _ (by omega) (by omega), Memory.initial, if_pos (by simp; omega), Nat.add_sub_cancel_left]

/-! ### The invariant of reachable states -/

/-- Settles O51: at reset memory and the stack are empty, and the machine runs with no fault recorded. -/
theorem resetMeetsInvariant : Obligations.ResetMeetsInvariant := by
  have hreset : State.reset.Inv := {
    memCanonical := Memory.wf_nil
    indexInRange := by decide
    pcInRange := by decide
    depthInRange := by decide
    entriesInRange := by simp [State.reset]
    causeRecorded := by decide
    datumRecorded := fun _ => rfl
    waitsAtKeyWait := by simp [State.reset] }
  exact ⟨hreset, hreset, fun _ => rfl, rfl⟩

theorem zextAddr_toNat (nnn : Addr) : (zextAddr nnn).toNat = nnn.toNat := by
  simp only [zextAddr, BitVec.toNat_setWidth]
  omega

theorem addIndex_toNat (i : Word) (b : Byte) : (addIndex i b).toNat = (i.toNat + b.toNat) % 4096 := by
  simp only [addIndex, BitVec.toNat_ofNat]
  omega

section
variable {i : Instr} {s t : State} (h : exec i s = .next t)
include h

theorem exec_keeps_memCanonical (hwf : s.mem.wf) : t.mem.wf := by
  by_cases hsame : t.mem = s.mem
  · exact hsame ▸ hwf
  rcases Instr.writer_mem (exec_writer (p := .mem) h (by simp) hsame) with ⟨x, rfl⟩ | ⟨x, rfl⟩
  all_goals
    rcases withRange_next h with hstored | rfl
    · cases hstored
      exact Memory.wf_writeBytes _ _ _ hwf
    · exact hwf

theorem exec_keeps_indexInRange (hi : s.i.toNat ≤ 0xFFF) : t.i.toNat ≤ 0xFFF := by
  by_cases hsame : t.i = s.i
  · exact hsame ▸ hi
  rcases Instr.writer_i (exec_writer (p := .i) h (by simp) hsame) with ⟨nnn, rfl⟩ | ⟨x, rfl⟩ | ⟨x, rfl⟩ <;> cases h
  · show (zextAddr nnn).toNat ≤ 0xFFF
    rw [zextAddr_toNat]
    omega
  · show (addIndex _ _).toNat ≤ 0xFFF
    rw [addIndex_toNat]
    omega
  · show (s.glyphAddress x).toNat ≤ 0xFFF
    rw [State.glyphAddress_toNat]
    omega

/-- The stack keeps its bounds (10_state.md R28, 92_eei_decisions.md D24): what is pushed is `PC`. -/
theorem exec_keeps_stackInRange (hpc : s.pc.toNat ≤ 0x1000) (hdepth : s.sp ≤ 16)
    (hentries : ∀ r ∈ s.stack, r.toNat ≤ 0x1000) : t.sp ≤ 16 ∧ ∀ r ∈ t.stack, r.toNat ≤ 0x1000 := by
  by_cases hsame : t.stack = s.stack
  · rw [State.sp, hsame]
    exact ⟨hdepth, hentries⟩
  rcases Instr.writer_stack (exec_writer (p := .stack) h (by simp) hsame) with ⟨nnn, rfl⟩ | rfl
  · simp only [exec, execCall] at h
    split at h
    · next hroom =>
      cases h
      exact ⟨hroom, List.forall_mem_cons.2 ⟨hpc, hentries⟩⟩
    · cases h
      exact ⟨hdepth, hentries⟩
  · simp only [exec, execRet] at h
    split at h
    · cases h
      exact ⟨hdepth, hentries⟩
    · next top rest hstack =>
      cases h
      rw [State.sp, hstack] at hdepth
      rw [hstack, List.forall_mem_cons] at hentries
      exact ⟨Nat.le_of_succ_le hdepth, hentries.2⟩

/-- A fault is recorded only where the machine halts (10_state.md R35). -/
theorem exec_keeps_record (hrun : t.status ≠ .halted) : t.cause = s.cause ∧ t.faddr = s.faddr := by
  rcases exec_ends i s with ⟨u, hcomplete, hkeep⟩ | ⟨c, info, hfault⟩ | hhold
  · rw [hcomplete] at h
    cases h
    exact ⟨hkeep.cause, hkeep.faddr⟩
  · rw [hfault] at h
    cases h
    exact absurd rfl hrun
  · rw [hhold] at h
    cases h
    exact ⟨rfl, rfl⟩

end

/-- The fault table names a cause (60_exceptions.md R221). -/
theorem State.executeFault?_cause_ne_none {s : State} {op : Word} {c : Cause} {info : Word}
    (h : s.executeFault? op = some (c, info)) : c ≠ .none := by
  cases hi : decodeWord op with
  | ret | call | ldBVx | ldMemVx | ldVxMem | drwVxVyN | skpVx | sknpVx =>
    simp only [State.executeFault?, hi] at h
    obtain ⟨-, rfl, -⟩ := faultRow_eq_some h
    decide
  | _ => simp [State.executeFault?, hi] at h

/-- `PC + 2` and `PC + 4` of a fetched word do not wrap (10_state.md R27; log 15). -/
theorem State.pc_add_toNat (s : State) (hpc : s.pc.toNat ≤ 0xFFE) (k : Nat) (hk : k ≤ 4) :
    (s.pc + BitVec.ofNat 16 k).toNat = s.pc.toNat + k := by
  have hsum : (s.pc + BitVec.ofNat 16 k).toNat = (s.pc.toNat + k % 2 ^ 16) % 2 ^ 16 := by
    rw [BitVec.toNat_add, BitVec.toNat_ofNat]
  omega

/-- The table of 10_state.md R26 stays below 0x1002 (R27). -/
theorem State.pcAfter_toNat_le (s : State) (i : Instr) (hpc : s.pc.toNat ≤ 0xFFE)
    (hentries : ∀ r ∈ s.stack, r.toNat ≤ 0x1000) : (s.pcAfter i).toNat ≤ 0x1002 := by
  have hstay : s.pc.toNat ≤ 0x1002 := hpc.trans (by decide)
  have hnext : (s.pc + 2).toNat ≤ 0x1002 :=
    (s.pc_add_toNat hpc 2 (by decide)).trans_le ((Nat.add_le_add_right hpc 2).trans (by decide))
  have hskip : (s.pc + 4).toNat ≤ 0x1002 :=
    (s.pc_add_toNat hpc 4 (by decide)).trans_le (Nat.add_le_add_right hpc 4)
  cases i with
  | jp nnn | call nnn =>
    show (zextAddr nnn).toNat ≤ _
    rw [zextAddr_toNat]
    omega
  | ret =>
    show (s.stack.headD 0).toNat ≤ _
    cases hstack : s.stack with
    | nil => simp
    | cons top rest => exact (hentries top (by simp [hstack])).trans (by decide)
  | jpV0Nnn nnn =>
    simp only [State.pcAfter, BitVec.toNat_ofNat]
    omega
  | seVxNn | sneVxNn | seVxVy | sneVxVy | skpVx | sknpVx | ldVxK =>
    simp only [State.pcAfter]
    split <;> assumption
  | _ => exact hnext

/-- A state that takes a fault meets the invariant: no other part changes. -/
theorem State.Inv.tick_takeFault {s : State} (hinv : s.Inv) {c : Cause} (hc : c ≠ .none) (info : Word) :
    (s.tick.takeFault c info s.pc).Inv where
  memCanonical := hinv.memCanonical
  indexInRange := hinv.indexInRange
  pcInRange := hinv.pcInRange
  depthInRange := hinv.depthInRange
  entriesInRange := hinv.entriesInRange
  causeRecorded := iff_of_true rfl hc
  datumRecorded := fun hrun => absurd rfl hrun
  waitsAtKeyWait := nofun

/-- A step that ends without a fault meets the invariant. -/
theorem State.Inv.endsByTable {s t : State} {op : Word} (hinv : s.Inv) (hrun : s.status ≠ .halted)
    (hfetch : s.fetch? = some op) (hexec : exec (decodeWord op) s.tick.advance = .next t)
    (hend : EndsByTable s (decodeWord op) t) : t.Inv := by
  have hpc : s.pc.toNat ≤ 0xFFE := by
    by_contra hgt
    simp [(s.fetch?_none).2 (Nat.not_le.1 hgt)] at hfetch
  have hcause : s.cause = .none := not_not.1 fun hne => hrun (hinv.causeRecorded.2 hne)
  have hrun' : t.status ≠ .halted := by
    rcases hend.status with hst | ⟨hst, -⟩ <;> simp [hst]
  obtain ⟨hcause', hfaddr'⟩ := exec_keeps_record hexec hrun'
  have hret : s.tick.advance.pc.toNat ≤ 0x1000 :=
    (s.pc_add_toNat hpc 2 (by decide)).trans_le (Nat.add_le_add_right hpc 2)
  obtain ⟨hdepth, hentries⟩ := exec_keeps_stackInRange hexec hret hinv.depthInRange hinv.entriesInRange
  exact {
    memCanonical := exec_keeps_memCanonical hexec hinv.memCanonical
    indexInRange := exec_keeps_indexInRange hexec hinv.indexInRange
    pcInRange := hend.pc ▸ s.pcAfter_toNat_le _ hpc hinv.entriesInRange
    depthInRange := hdepth
    entriesInRange := hentries
    causeRecorded := iff_of_false hrun' (not_not.2 (hcause'.trans hcause))
    datumRecorded := fun _ => hfaddr'.trans (hinv.datumRecorded hrun)
    waitsAtKeyWait := fun hwait => by
      rcases hend.status with hst | ⟨-, hpcSame, x, hx⟩
      · simp [hst] at hwait
      · have hmem : t.mem = s.mem :=
          exec_keeps_part (p := .mem) (s := s.tick.advance) hexec (by simp [hx, Instr.writes]) (by simp)
        exact ⟨op, x, by rw [← hfetch, State.fetch?, State.fetch?, hpcSame, hmem], hx⟩ }

/-- Settles O52, by the ways a step goes: a Halted state stays, a fault changes nothing the invariant bounds, and every
other end is by the tables and the frame of the instruction. -/
theorem stepKeepsInvariant : Obligations.StepKeepsInvariant := by
  intro s t hinv hstep
  by_cases hrun : s.status = .halted
  · rw [step_halted s hrun] at hstep
    cases hstep
    exact hinv
  cases hfetch : s.fetch? with
  | none =>
    rw [step_fetchFault s hrun hfetch] at hstep
    cases hstep
    exact hinv.tick_takeFault (by decide) _
  | some op =>
    rw [step_exec s op hrun hfetch] at hstep
    cases hfault : s.executeFault? op with
    | some f =>
      rw [exec_of_executeFault?_some hfault] at hstep
      cases hstep
      exact hinv.tick_takeFault (State.executeFault?_cause_ne_none hfault) _
    | none =>
      obtain ⟨t', hexec, hend⟩ := exec_of_executeFault?_none hfault
      cases hexec.symm.trans hstep
      exact hinv.endsByTable hrun hfetch hexec hend

end Sys2Proof.Machine

namespace Sys2Proof.Machine

/-! ### Stored bytes and the fetch (20_memory.md R52, R54, R61) -/

/-- `Fx55` with its whole range inside memory stores the registers and completes (43_index_memory.md R156). -/
theorem exec_ldMemVx_inside (x : RegIdx) (s : State) (hin : s.i.toNat + x.toNat ≤ 0xFFF) :
    exec (.ldMemVx x) s = complete (s.setMem (s.mem.writeBytes s.i.toNat (s.firstV (x.toNat + 1)))) :=
  withRange_inside s (x.toNat + 1) (storeRegisters x) (.inr (Nat.succ_le_succ hin))

/-- Each register that `Fx55` stores is read back at its own address (20_memory.md R54, R56). -/
theorem State.read_writeBytes_firstV (s : State) (x k : RegIdx) (hin : s.i.toNat + x.toNat ≤ 0xFFF)
    (hk : k.toNat ≤ x.toNat) :
    (s.mem.writeBytes s.i.toNat (s.firstV (x.toNat + 1))).read (s.i.toNat + k.toNat) = s.getV k := by
  have hlen : s.i.toNat + (s.firstV (x.toNat + 1)).length ≤ Config.memSize := by
    rw [State.firstV_length]
    exact (Nat.add_le_add_left (Nat.min_le_left _ _) _).trans (Nat.succ_le_succ hin)
  rw [Memory.read_writeBytes _ _ _ _ hlen, if_pos (Nat.le_add_right _ _), Nat.add_sub_cancel_left,
    State.firstV_getElem? s _ _ (Nat.lt_succ_of_le hk) k.isLt, Option.getD_some, BitVec.ofNat_toNat,
    BitVec.setWidth_eq]

/-- Settles O31: the fetch reads the bytes at `I` and `I + 1`, where `Fx55` has stored `V0` and `V1`. -/
theorem storedWordIsFetched : Obligations.StoredWordIsFetched := by
  intro x s hx hin
  refine ⟨_, exec_ldMemVx_inside x s hin, ?_⟩
  have hpc : s.i.toNat ≤ 0xFFE := by omega
  rw [State.fetch?_some _ hpc]
  exact congrArg some (congrArg₂ joinBytes (s.read_writeBytes_firstV x 0 hin (Nat.zero_le _))
    (s.read_writeBytes_firstV x 1 hin hx))

/-! ### The canonical form is determined by its bytes (log 7) -/

/-- A byte that differs from the reset contents is listed. -/
theorem Memory.mem_of_read_ne_initial (m : Memory) (a : Nat) (h : m.read a ≠ Memory.initial a) :
    (a, m.read a) ∈ m := by
  induction m with
  | nil => exact absurd rfl h
  | cons p rest ih =>
    obtain ⟨k, b⟩ := p
    by_cases hk : k = a
    · simp [Memory.read, hk]
    · simp only [Memory.read, if_neg hk] at h ⊢
      exact List.mem_cons_of_mem _ (ih h)

/-- With rising addresses no entry hides another. -/
theorem Memory.read_of_mem (m : Memory) (hrising : m.Pairwise (fun p q => p.1 < q.1)) (a : Nat) (b : Byte)
    (hmem : (a, b) ∈ m) : m.read a = b := by
  induction m with
  | nil => cases hmem
  | cons p rest ih =>
    obtain ⟨k, c⟩ := p
    obtain ⟨hfirst, hrest⟩ := List.pairwise_cons.1 hrising
    rcases List.mem_cons.1 hmem with heq | hlater
    · cases heq
      exact if_pos rfl
    · have hk : k ≠ a := Nat.ne_of_lt (hfirst _ hlater)
      rw [Memory.read, if_neg hk, ih hrest hlater]

/-- A canonical memory lists exactly the bytes that differ from the reset contents. -/
theorem Memory.mem_iff_of_wf (m : Memory) (h : m.wf) (a : Nat) (b : Byte) :
    (a, b) ∈ m ↔ m.read a = b ∧ b ≠ Memory.initial a := by
  obtain ⟨hrising, hentries⟩ := h
  constructor
  · intro hmem
    exact ⟨m.read_of_mem hrising a b hmem, (hentries _ hmem).2⟩
  · rintro ⟨rfl, hne⟩
    exact m.mem_of_read_ne_initial a hne

/-- Settles O54: canonical memories that read the same list the same entries, and a list with rising addresses is
determined by its entries. -/
theorem canonicalMemoryIsDeterminedByItsBytes : Obligations.CanonicalMemoryIsDeterminedByItsBytes := by
  intro m m' hm hm' hread
  have : Std.Irrefl (fun p q : Nat × Byte => p.1 < q.1) := ⟨fun p => Nat.lt_irrefl p.1⟩
  have : Std.Antisymm (fun p q : Nat × Byte => p.1 < q.1) := ⟨fun _ _ hpq hqp => absurd hqp (Nat.lt_asymm hpq)⟩
  refine hm.1.eq_of_mem_iff hm'.1 fun ⟨a, b⟩ => ?_
  rw [m.mem_iff_of_wf hm, m'.mem_iff_of_wf hm', hread]

end Sys2Proof.Machine

namespace Sys2Proof

/-! ### A word is its fields packed again (30_encoding.md R71, R72) -/

theorem packNnn_fields (w : Word) : packNnn (opcField w) (nnnField w) = w := by
  apply BitVec.eq_of_getLsbD_eq
  intro i hi
  rw [packNnn_getLsbD]
  by_cases h : i < 12
  · simp [nnnField, h]
  · simp [opcField, h, show i - 12 < 4 by omega, show 12 + (i - 12) = i by omega]

theorem xField_append_nnField (w : Word) : xField w ++ nnField w = nnnField w := by
  apply BitVec.eq_of_getLsbD_eq
  intro i hi
  rw [BitVec.getLsbD_append]
  by_cases h : i < 8
  · simp [nnField, nnnField, h, hi]
  · simp [xField, nnnField, h, hi, show i - 8 < 4 by omega, show 8 + (i - 8) = i by omega]

theorem yField_append_nField (w : Word) : yField w ++ nField w = nnField w := by
  apply BitVec.eq_of_getLsbD_eq
  intro i hi
  rw [BitVec.getLsbD_append]
  by_cases h : i < 4
  · simp [nField, nnField, h, hi]
  · simp [yField, nnField, h, hi, show i - 4 < 4 by omega, show 4 + (i - 4) = i by omega]

/-! The decoder tests `opc` and `n` as numbers and `nn` as a byte, so the hypotheses below are in that form. -/

section
variable {w : Word} {o n : Nibble} {nn : Byte}

theorem packNnn_nnnField (ho : (opcField w).toNat = o.toNat) : packNnn o (nnnField w) = w := by
  rw [← BitVec.eq_of_toNat_eq ho]
  exact packNnn_fields w

theorem packXnn_xField (ho : (opcField w).toNat = o.toNat) (hnn : nnField w = nn) : packXnn o (xField w) nn = w := by
  rw [packXnn, ← hnn, xField_append_nnField]
  exact packNnn_nnnField ho

theorem packXyn_xField_yField (ho : (opcField w).toNat = o.toNat) (hn : (nField w).toNat = n.toNat) :
    packXyn o (xField w) (yField w) n = w := by
  rw [packXyn, ← BitVec.eq_of_toNat_eq hn]
  exact packXnn_xField ho (yField_append_nField w).symm

end

/-! ### Encoding after decoding (30_encoding.md R75, R83) -/

theorem encodeWord_decodeAlu (w : Word) (ho : (opcField w).toNat = 0x8) : encodeWord (decodeAlu w) = w := by
  unfold decodeAlu
  split
  case h_10 => rfl
  all_goals exact packXyn_xField_yField ho ‹_›

theorem encodeWord_decodeKey (w : Word) (ho : (opcField w).toNat = 0xE) : encodeWord (decodeKey w) = w := by
  unfold decodeKey
  split_ifs
  case neg => rfl
  all_goals exact packXnn_xField ho ‹_›

theorem encodeWord_decodeMisc (w : Word) (ho : (opcField w).toNat = 0xF) : encodeWord (decodeMisc w) = w := by
  unfold decodeMisc
  split_ifs
  case neg => rfl
  all_goals exact packXnn_xField ho ‹_›

/-- By the leading nibble, whose value `k` is the decoder's case `h_(k+1)`; the cases left to the end are those of format
XNN. -/
@[simp] theorem encodeWord_decodeWord (w : Word) : encodeWord (decodeWord w) = w := by
  unfold decodeWord
  split
  case h_1 =>
    split_ifs with hcls hret
    · exact hcls.symm
    · exact hret.symm
    · rfl
  case h_2 ho | h_3 ho | h_11 ho | h_12 ho => exact packNnn_nnnField ho
  case h_6 ho | h_10 ho =>
    split_ifs with hn
    · exact packXyn_xField_yField ho (congrArg BitVec.toNat hn)
    · rfl
  case h_9 ho => exact encodeWord_decodeAlu w ho
  case h_14 ho => exact packXyn_xField_yField ho rfl
  case h_15 ho => exact encodeWord_decodeKey w ho
  case h_16 =>
    have hlt := (opcField w).isLt
    have ho : (opcField w).toNat = 0xF := by simp only [imp_false] at *; omega
    exact encodeWord_decodeMisc w ho
  all_goals exact packXnn_xField ‹_› rfl

/-- Settles O2: each case of the decoder takes the word apart into the fields that the encoder packs again, and an
unrecognized word is kept whole. -/
theorem encodeAfterDecodeIsIdentity : Obligations.EncodeAfterDecodeIsIdentity :=
  encodeWord_decodeWord

/-- The word an unrecognized instruction keeps is the one it was decoded from (30_encoding.md R83). -/
theorem eq_of_decodeWord_eq_unrecognized {w u : Word} (h : decodeWord w = .unrecognized u) : u = w := by
  have hw := encodeWord_decodeWord w
  rwa [h] at hw

/-! ### The row of a decoded word (30_encoding.md R74, R75) -/

theorem row_unrecognized_not_mem (w : Word) : (Instr.unrecognized w).row ∉ opcodeRows := by
  change (⟨0x0000, 0x0000⟩ : OpcodeRow) ∉ opcodeRows
  decide

theorem row_not_mem_iff (i : Instr) : i.row ∉ opcodeRows ↔ ∃ w, i = .unrecognized w := by
  constructor
  · cases i with
    | unrecognized w => exact fun _ => ⟨w, rfl⟩
    | _ => exact fun h => absurd (by simp [Instr.row, opcodeRows, opcodeRowsLow, opcodeRowsAlu, opcodeRowsHigh]) h
  · rintro ⟨w, rfl⟩
    exact row_unrecognized_not_mem w

open Laws.EncodesItsRow in
/-- The word of an instruction matches the row of the instruction (R74), by the format of the row. -/
theorem row_hits_encodeWord (i : Instr) : i.row.hits (encodeWord i) = true := by
  cases i with
  | cls => exact cls rfl
  | ret => exact ret rfl
  | jp nnn | call nnn | ldINnn nnn | jpV0Nnn nnn => exact hits_packNnn _ nnn
  | seVxNn x nn | sneVxNn x nn | ldVxNn x nn | addVxNn x nn | rndVxNn x nn => exact hits_packXnn _ x nn
  | drwVxVyN x y n => exact hits_packXyn _ x y n
  | seVxVy x y | ldVxVy x y | orVxVy x y | andVxVy x y | xorVxVy x y | addVxVy x y | subVxVy x y | shrVx x y
  | subnVxVy x y | shlVx x y | sneVxVy x y => exact hits_packXy _ x y _
  | skpVx x | sknpVx x | ldVxDt x | ldVxK x | ldDtVx x | ldStVx x | addIVx x | ldFVx x | ldBVx x | ldMemVx x
  | ldVxMem x => exact hits_packXkk _ x _
  | unrecognized w => simp [Instr.row, encodeWord, OpcodeRow.hits]

/-- A field that a row's mask covers whole has the value of the match word in every word of the row. -/
theorem OpcodeRow.field_eq_of_hits {m p w : Word} (h : OpcodeRow.hits ⟨m, p⟩ w = true) (start len : Nat)
    (hm : m.extractLsb' start len = BitVec.allOnes len) : w.extractLsb' start len = p.extractLsb' start len := by
  have hp : w &&& m = p := beq_iff_eq.1 h
  rw [← hp, BitVec.extractLsb'_and, hm, BitVec.and_allOnes]

/-- By the mask of the row: the fields it fixes are the ones the decoder selects on. -/
theorem row_decodeWord_of_hits_row (i : Instr) (w : Word) (hi : i.row ∈ opcodeRows) (h : i.row.hits w = true) :
    (decodeWord w).row = i.row := by
  cases i with
  | cls | ret =>
    have hw := OpcodeRow.field_eq_of_hits h 0 16 rfl
    rw [BitVec.extractLsb'_eq_self] at hw
    rw [hw]
    rfl
  | jp _ | call _ | seVxNn _ _ | sneVxNn _ _ | ldVxNn _ _ | addVxNn _ _ | ldINnn _ | jpV0Nnn _ | rndVxNn _ _
  | drwVxVyN _ _ _ =>
    have ho := OpcodeRow.field_eq_of_hits h 12 4 rfl
    simp [decodeWord, opcField, ho, Instr.row]
  | seVxVy _ _ | ldVxVy _ _ | orVxVy _ _ | andVxVy _ _ | xorVxVy _ _ | addVxVy _ _ | subVxVy _ _ | shrVx _ _
  | subnVxVy _ _ | shlVx _ _ | sneVxVy _ _ =>
    have ho := OpcodeRow.field_eq_of_hits h 12 4 rfl
    have hn := OpcodeRow.field_eq_of_hits h 0 4 rfl
    simp [decodeWord, decodeAlu, opcField, nField, ho, hn, Instr.row]
  | skpVx _ | sknpVx _ | ldVxDt _ | ldVxK _ | ldDtVx _ | ldStVx _ | addIVx _ | ldFVx _ | ldBVx _ | ldMemVx _
  | ldVxMem _ =>
    have ho := OpcodeRow.field_eq_of_hits h 12 4 rfl
    have hnn := OpcodeRow.field_eq_of_hits h 0 8 rfl
    simp [decodeWord, decodeKey, decodeMisc, opcField, nnField, ho, hnn, Instr.row]
  | unrecognized u => exact absurd hi (row_unrecognized_not_mem u)

/-- Every row is the row of an instruction: of the one its match word decodes to. -/
theorem row_decodeWord_pattern : ∀ r ∈ opcodeRows, (decodeWord r.pattern).row = r := by decide

theorem hits_iff_row_decodeWord_eq (w : Word) (r : OpcodeRow) (hr : r ∈ opcodeRows) :
    r.hits w = true ↔ (decodeWord w).row = r := by
  constructor
  · intro h
    have hrow := row_decodeWord_pattern r hr
    rw [← hrow] at hr h
    exact (row_decodeWord_of_hits_row _ w hr h).trans hrow
  · rintro rfl
    simpa using row_hits_encodeWord (decodeWord w)

theorem recognizedWord_iff_row_mem (w : Word) : recognizedWord w = true ↔ (decodeWord w).row ∈ opcodeRows := by
  simp only [recognizedWord, List.any_eq_true]
  constructor
  · rintro ⟨r, hr, h⟩
    exact (hits_iff_row_decodeWord_eq w r hr).1 h ▸ hr
  · intro hr
    exact ⟨_, hr, (hits_iff_row_decodeWord_eq w _ hr).2 rfl⟩

theorem recognizedWord_eq_false_iff (w : Word) : recognizedWord w = false ↔ decodeWord w = .unrecognized w := by
  rw [← Bool.not_eq_true, recognizedWord_iff_row_mem, row_not_mem_iff]
  constructor
  · rintro ⟨u, hu⟩
    rw [hu, eq_of_decodeWord_eq_unrecognized hu]
  · exact fun h => ⟨w, h⟩

/-! ### Well-formed instructions (30_encoding.md R73, R79) -/

theorem Instr.wellFormed_iff (i : Instr) :
    i.wellFormed = true ↔ ∀ w, i = .unrecognized w → recognizedWord w = false := by
  cases i with
  | unrecognized u => simp [Instr.wellFormed]
  | _ => exact iff_of_true rfl nofun

theorem wellFormed_decodeWord (w : Word) : (decodeWord w).wellFormed = true := by
  rw [Instr.wellFormed_iff]
  intro u hu
  obtain rfl := eq_of_decodeWord_eq_unrecognized hu
  exact (recognizedWord_eq_false_iff u).2 hu

/-- Settles O3: the decoder selects on the fields that the masks fix, so the row a word matches is the row of the
instruction it decodes to, and the words of no row are the unrecognized ones. -/
theorem decoderSelectsByMaskAndMatch : Obligations.DecoderSelectsByMaskAndMatch :=
  ⟨hits_iff_row_decodeWord_eq, wellFormed_decodeWord, recognizedWord_eq_false_iff⟩

/-! ### Decoding after encoding (30_encoding.md R74, R75) -/

/-- An operand of a packed word is read back by its field, and the fixed fields select the instruction; an unrecognized
instruction is well formed only if its word matches no row. -/
theorem decodeWord_encodeWord (i : Instr) (h : i.wellFormed = true) : decodeWord (encodeWord i) = i := by
  cases i with
  | cls | ret => rfl
  | unrecognized w => exact (recognizedWord_eq_false_iff w).1 ((Instr.wellFormed_iff _).1 h w rfl)
  | _ => simp [encodeWord, decodeWord, decodeAlu, decodeKey, decodeMisc]

/-- Settles O1: the two bytes join to the instruction's word, which decodes to the instruction. -/
theorem decodeAfterEncodeIsIdentity : Obligations.DecodeAfterEncodeIsIdentity := by
  intro i rest h
  rw [encode, List.cons_append, List.cons_append, List.nil_append, decode_cons_cons, joinBytes_highByte_lowByte,
    decodeWord_encodeWord i h]

/-- Settles O4, by evaluating the decoder on the twelve words. -/
theorem sampleWordsDecode : Obligations.SampleWordsDecode := by
  unfold Obligations.SampleWordsDecode
  decide

end Sys2Proof

namespace Sys2Proof.Machine

/-! ### The step cycle (40_step_cycle.md R90 to R101) -/

/-- One tick counts down to 0 and stays there (R91). -/
theorem tickTimer_toNat (b : Byte) : (tickTimer b).toNat = b.toNat - 1 := by
  unfold tickTimer
  split
  · next hzero => simp [hzero]
  · next hpos => bv_omega

theorem keepsExcept_tick (s : State) : KeepsExcept [.dt, .st] s s.tick := by
  intro p hp
  cases p with
  | dt | st => simp at hp
  | _ => exact rfl

/-- The tick and the `PC` advance, all that a step does before its execute phase (R90). -/
theorem keepsExcept_tick_advance (s : State) : KeepsExcept [.pc, .dt, .st] s s.tick.advance :=
  ((keepsExcept_tick s).trans (keepsExcept_setPc s.tick _)).mono (by simp)

/-- A run whose first step goes on is the run of the remaining steps from there. -/
theorem run_succ_of_step {M : Host.Core} {s s' : M.State} (h : M.step s = .next s') (k : Nat) :
    M.run (k + 1) s = M.run k s' := by
  rw [Host.Core.run, h]

/-- Settles O38, by induction on the number of steps: each leaves the Halted state as it is. -/
theorem haltedIsAbsorbing : Obligations.HaltedIsAbsorbing := by
  intro s k hhalted
  have hstep : Sys2Proof.core.step s = .next s := step_halted s hhalted
  induction k with
  | zero => rfl
  | succ k ih => exact (run_succ_of_step hstep k).trans ih

/-! No execute phase reads the run status, and each of its ends overwrites it (R100, R101). -/

theorem State.skipIf_setStatus (s : State) (x : RunStatus) (c : Bool) :
    (s.setStatus x).skipIf c = (s.skipIf c).setStatus x := by
  cases c <;> rfl

theorem State.loadV_setStatus (s : State) (x : RunStatus) (n : Nat) :
    (s.setStatus x).loadV n = (s.loadV n).setStatus x := by
  induction n with
  | zero => rfl
  | succ k ih =>
    rw [State.loadV, ih]
    simp [State.loadV, State.setStatus, State.setV]

theorem complete_setStatus (s : State) (x : RunStatus) : complete (s.setStatus x) = complete s := rfl

theorem withRange_setStatus (s : State) (x : RunStatus) (len : Nat) (k : State → Host.Outcome State Fault Refusal)
    (hk : k (s.setStatus x) = k s) : withRange len k (s.setStatus x) = withRange len k s := by
  have hsame : (s.setStatus x).inMemory len = s.inMemory len := rfl
  rw [withRange, hsame, hk]
  rfl

theorem withKey_setStatus (s : State) (x : RunStatus) (r : RegIdx)
    (k : Bool → State → Host.Outcome State Fault Refusal) (hk : ∀ b, k b (s.setStatus x) = k b s) :
    withKey r k (s.setStatus x) = withKey r k s := by
  rw [withKey, State.getV_setStatus, hk]
  rfl

theorem complete_skipIf_setStatus (s : State) (x : RunStatus) (c : Bool) :
    complete ((s.setStatus x).skipIf c) = complete (s.skipIf c) := by
  rw [State.skipIf_setStatus, complete_setStatus]

/-- An execute phase does the same whatever the run status is. -/
theorem exec_setStatus (i : Instr) (s : State) (x : RunStatus) : exec i (s.setStatus x) = exec i s := by
  cases i with
  | ret =>
    simp only [exec, execRet, State.setStatus_stack]
    cases s.stack <;> rfl
  | call nnn =>
    have hsame : (s.setStatus x).sp = s.sp := rfl
    simp only [exec, execCall, hsame]
    split <;> rfl
  | ldVxK r =>
    have hsame : (s.setStatus x).chooseKey? = s.chooseKey? := rfl
    simp only [exec, execLdVxK, hsame]
    cases s.chooseKey? <;> rfl
  | seVxNn | sneVxNn | seVxVy | sneVxVy => exact complete_skipIf_setStatus s x _
  | skpVx r | sknpVx r => exact withKey_setStatus s x r _ fun b => complete_skipIf_setStatus s x _
  | ldVxMem r =>
    refine withRange_setStatus s x _ _ ?_
    rw [loadRegisters, State.loadV_setStatus]
    rfl
  | drwVxVyN | ldBVx | ldMemVx => exact withRange_setStatus s x _ _ rfl
  | _ => rfl

/-- The step of a machine that is not Halted does not depend on which other run status it has. -/
theorem step_setStatus (s : State) (x : RunStatus) (hs : s.status ≠ .halted) (hx : x ≠ .halted) :
    step (s.setStatus x) = step s := by
  cases hfetch : s.fetch? with
  | none =>
    rw [step_fetchFault s hs hfetch, step_fetchFault (s.setStatus x) hx hfetch]
    rfl
  | some op =>
    rw [step_exec s op hs hfetch, step_exec (s.setStatus x) op hx hfetch]
    exact exec_setStatus _ s.tick.advance x

/-- Settles O39: neither state is Halted, and they differ in the run status only. -/
theorem awaitingKeyStepsAsRunning : Obligations.AwaitingKeyStepsAsRunning := by
  intro s hwait
  exact (step_setStatus s .running (by simp [hwait]) (by decide)).symm

/-- After a step a part other than `PC` and the run status with its fault record is as the tick left it, unless the fetched
instruction writes it. -/
theorem step_keeps_part {s t : State} {p : Part} (hrun : s.status ≠ .halted) (hstep : step s = .next t)
    (hwrites : ∀ op, s.fetch? = some op → p ∉ (decodeWord op).writes)
    (hctl : p ∉ [Part.pc, .status, .cause, .faddr]) : p.SameData s.tick t := by
  cases hfetch : s.fetch? with
  | none =>
    rw [step_fetchFault s hrun hfetch] at hstep
    cases hstep
    exact keepsExcept_takeFault s.tick _ _ _ p hctl
  | some op =>
    rw [step_exec s op hrun hfetch] at hstep
    have hadvance : p.SameData s.tick s.tick.advance :=
      keepsExcept_setPc s.tick _ p fun hpc => hctl (by simp [List.mem_singleton.1 hpc])
    exact hadvance.trans (exec_keeps_part hstep (hwrites op hfetch) hctl)

/-- Settles O40: what the tick leaves in a timer stays there unless the instruction fetched writes that timer. -/
theorem timersTickOncePerStep : Obligations.TimersTickOncePerStep := by
  intro s t hrun hstep
  refine ⟨fun hdt => ?_, fun hst => ?_⟩
  · have hkeep : t.dt = tickTimer s.dt := step_keeps_part (p := .dt) hrun hstep
      (fun op hfetch hmem => (Instr.writer_dt hmem).elim fun x => hdt op x hfetch) (by simp)
    rw [hkeep, tickTimer_toNat]
  · have hkeep : t.st = tickTimer s.st := step_keeps_part (p := .st) hrun hstep
      (fun op hfetch hmem => (Instr.writer_st hmem).elim fun x => hst op x hfetch) (by simp)
    rw [hkeep, tickTimer_toNat]

/-- Settles O14: the execute phase only completes, so a step does no more than the tick and the `PC` advance. -/
theorem unrecognizedDoesNothing : Obligations.UnrecognizedDoesNothing := by
  refine ⟨fun w => (recognizedWord_eq_false_iff w).1, fun w s => ?_, fun w s hrun hfetch hword => ?_⟩
  · exact ⟨s.setStatus .running, rfl, rfl, (keepsExcept_setStatus s .running).unchangedExcept⟩
  · have hstep : step s = complete s.tick.advance := by
      rw [step_exec s w hrun hfetch, (recognizedWord_eq_false_iff w).1 hword]
      rfl
    exact ⟨s.tick.advance.setStatus .running, hstep, rfl, rfl, tickTimer_toNat s.dt, tickTimer_toNat s.st,
      ((keepsExcept_tick_advance s).trans (keepsExcept_setStatus _ .running)).unchangedExcept⟩

/-- Settles O36: up to 0xFFE the fetch gives the word of the two bytes at `PC`. -/
theorem stepRunsDecodedInstruction : Obligations.StepRunsDecodedInstruction := by
  intro s i hrun hpc hdecode
  rw [decode_cons_cons] at hdecode
  cases hdecode
  exact ⟨s.tick.advance, step_exec s _ hrun (s.fetch?_some hpc), rfl, tickTimer_toNat s.dt, tickTimer_toNat s.st,
    (keepsExcept_tick_advance s).unchangedExcept⟩

/-- Settles O37: such a fetch fails, and the fault entry is all that follows the tick. -/
theorem fetchPastMemoryHalts : Obligations.FetchPastMemoryHalts := by
  intro s hrun hpc
  refine ⟨_, step_fetchFault s hrun (s.fetch?_none.2 hpc), rfl, rfl, rfl, rfl, ?_⟩
  exact ((keepsExcept_takeFault s.tick _ _ _).mono (by simp)).unchangedExcept

end Sys2Proof.Machine

namespace Sys2Proof.Machine

/-! ### Control transfer (41_control_flow.md R110 to R118) -/

section
variable {s u : State}

/-- The execute phase of a word fetched from `a` sees `PC = a + 2` (40_step_cycle.md R93; log 13). -/
theorem State.fetchedFrom_of_pc {a : Word} (hpc : s.pc = a + 2) : s.fetchedFrom = a := by
  simp [State.fetchedFrom, hpc]

/-- A fault raised in an execute phase halts the machine at the faulting instruction (60_exceptions.md R224 to R226). -/
theorem takeFault_haltedAt {a : Word} (hpc : s.pc = a + 2) (c : Cause) (info : Word) :
    HaltedAt c info a s (s.takeFault c info s.fetchedFrom) :=
  ⟨rfl, rfl, rfl, State.fetchedFrom_of_pc hpc, ((keepsExcept_takeFault s c info _).mono (by simp)).unchangedExcept⟩

/-- An execute phase that completes with a new `PC` and no other change. -/
theorem complete_of_keepsExcept_pc (h : KeepsExcept [.pc] s u) :
    ∃ t, complete u = .next t ∧ t.status = .running ∧ t.pc = u.pc ∧ UnchangedExcept [.pc, .status] s t :=
  ⟨_, rfl, rfl, rfl, (h.trans (keepsExcept_setStatus u .running)).unchangedExcept⟩

/-- An execute phase that completes with a new stack, a new `PC` and no other change. -/
theorem complete_setStack_setPc (s : State) (stack : List Word) (target : Word) :
    ∃ t, complete ((s.setStack stack).setPc target) = .next t ∧ t.status = .running ∧ t.pc = target ∧ t.stack = stack ∧
      UnchangedExcept [.pc, .stack, .status] s t := by
  have hkeep := (keepsExcept_setStack s stack).trans (keepsExcept_setPc _ target)
  exact ⟨_, rfl, rfl, rfl, rfl, ((hkeep.trans (keepsExcept_setStatus _ .running)).mono (by simp)).unchangedExcept⟩

end

/-- A stack with one entry more, read from the oldest (10_state.md R28): the same for a push, with `t` the later state, and
for a pop, with `t` the earlier one. -/
theorem State.stk?_of_stack_cons {s t : State} {r : Word} (h : t.stack = r :: s.stack) :
    t.sp = s.sp + 1 ∧ t.stk? s.sp = some r ∧ ∀ j, j < s.sp → t.stk? j = s.stk? j := by
  have hreverse : t.stack.reverse = s.stack.reverse ++ [r] := by rw [h, List.reverse_cons]
  refine ⟨by rw [State.sp, h]; rfl, ?_, fun j hj => ?_⟩
  · rw [State.stk?, hreverse, State.sp, ← List.length_reverse, List.getElem?_concat_length]
  · rw [State.stk?, hreverse, List.getElem?_append_left (by rwa [List.length_reverse]), State.stk?]

/-! Jumps, call and return. -/

theorem State.indexedTarget_toNat (s : State) (nnn : Addr) :
    (s.indexedTarget nnn).toNat = (nnn.toNat + (s.getV 0).toNat) % 4096 := by
  simp only [State.indexedTarget, BitVec.toNat_ofNat]
  omega

/-- Settles O9: the target is the field itself. -/
theorem jpSetsPc : Obligations.JpSetsPc := by
  intro nnn s
  obtain ⟨t, hexec, hrun, hpc, hkeep⟩ := complete_of_keepsExcept_pc (keepsExcept_setPc s (zextAddr nnn))
  exact ⟨decodeWord_encodeWord (.jp nnn) rfl, t, hexec, hrun, hpc ▸ zextAddr_toNat nnn, hkeep⟩

/-- Settles O11: the target is below 4096, so it is its own 16-bit form. -/
theorem jpV0AddsV0ModuloMemory : Obligations.JpV0AddsV0ModuloMemory := by
  intro nnn s
  obtain ⟨t, hexec, hrun, hpc, hkeep⟩ := complete_of_keepsExcept_pc (keepsExcept_setPc s (s.indexedTarget nnn))
  exact ⟨decodeWord_encodeWord (.jpV0Nnn nnn) rfl, t, hexec, hrun, hpc ▸ s.indexedTarget_toNat nnn, hkeep⟩

theorem exec_ret_cons {s : State} {top : Word} {rest : List Word} (h : s.stack = top :: rest) :
    exec .ret s = complete ((s.setStack rest).setPc top) := by
  simp only [exec, execRet, h]

theorem exec_ret_nil {s : State} (h : s.stack = []) :
    exec .ret s = raiseFault .stackUnderflow s.fetchedFrom s := by
  simp only [exec, execRet, h]

/-- Settles O8, by whether the stack is empty: the old stack is the new one with the new `PC` on top. -/
theorem retPopsOrUnderflows : Obligations.RetPopsOrUnderflows := by
  refine ⟨rfl, fun a s hpc => ?_⟩
  cases hstack : s.stack with
  | nil =>
    have hempty : s.sp = 0 := congrArg List.length hstack
    rw [exec_ret_nil hstack, State.fetchedFrom_of_pc hpc]
    exact ⟨fun hsp => absurd hempty hsp, fun _ => ⟨_, rfl, takeFault_haltedAt hpc .stackUnderflow a⟩⟩
  | cons top rest =>
    obtain ⟨t, hexec, hrun, rfl, rfl, hkeep⟩ := complete_setStack_setPc s rest top
    obtain ⟨hsp, hnewest, holder⟩ := State.stk?_of_stack_cons hstack
    rw [exec_ret_cons hstack, hsp, Nat.add_sub_cancel]
    exact ⟨fun _ => ⟨t, hexec, hrun, hnewest, rfl, fun j hj => (holder j hj).symm, hkeep⟩,
      fun hempty => absurd hempty (Nat.succ_ne_zero _)⟩

theorem exec_call_room {s : State} (nnn : Addr) (h : s.sp < 16) :
    exec (.call nnn) s = complete ((s.setStack (s.pc :: s.stack)).setPc (zextAddr nnn)) := if_pos h

theorem exec_call_full {s : State} (nnn : Addr) (h : 16 ≤ s.sp) :
    exec (.call nnn) s = raiseFault .stackOverflow s.fetchedFrom s := if_neg (Nat.not_lt.2 h)

/-- Settles O10, by whether the stack has room: the new stack is the old one with `a + 2` on top. -/
theorem callPushesOrOverflows : Obligations.CallPushesOrOverflows := by
  refine fun nnn a s hpc => ⟨decodeWord_encodeWord (.call nnn) rfl, fun hroom => ?_, fun hfull => ?_⟩
  · obtain ⟨t, hexec, hrun, htarget, hstack, hkeep⟩ := complete_setStack_setPc s (s.pc :: s.stack) (zextAddr nnn)
    obtain ⟨hsp, hnewest, holder⟩ := State.stk?_of_stack_cons hstack
    rw [exec_call_room nnn hroom, ← hpc]
    exact ⟨t, hexec, hrun, htarget ▸ zextAddr_toNat nnn, hsp, hnewest, holder, hkeep⟩
  · rw [exec_call_full nnn hfull, State.fetchedFrom_of_pc hpc]
    exact ⟨_, rfl, takeFault_haltedAt hpc .stackOverflow a⟩

/-! Skips. -/

/-- A skip completes with 2 more in `PC` when its condition holds (R118). -/
theorem complete_skipIf_decide (s : State) (p : Prop) [Decidable p] :
    ∃ t, complete (s.skipIf (decide p)) = .next t ∧ t.status = .running ∧
      t.pc = (if p then s.pc + 2 else s.pc) ∧ UnchangedExcept [.pc, .status] s t := by
  simpa only [State.skipIf_pc, decide_eq_true_eq] using complete_of_keepsExcept_pc (keepsExcept_skipIf s (decide p))

/-- A skip on the negated condition. -/
theorem complete_skipIf_decide_not (s : State) (p : Prop) [Decidable p] :
    ∃ t, complete (s.skipIf (decide (¬ p))) = .next t ∧ t.status = .running ∧
      t.pc = (if p then s.pc else s.pc + 2) ∧ UnchangedExcept [.pc, .status] s t := by
  simpa only [ite_not] using complete_skipIf_decide s (¬ p)

/-- Settles O12: the two conditions are each other's negation. -/
theorem skipsOnImmediate : Obligations.SkipsOnImmediate := fun x nn s =>
  ⟨decodeWord_encodeWord (.seVxNn x nn) rfl, decodeWord_encodeWord (.sneVxNn x nn) rfl,
    complete_skipIf_decide s (s.getV x = nn), complete_skipIf_decide_not s (s.getV x = nn)⟩

/-- Settles O13: the two conditions are each other's negation. -/
theorem skipsOnRegisters : Obligations.SkipsOnRegisters := fun x y s =>
  ⟨decodeWord_encodeWord (.seVxVy x y) rfl, decodeWord_encodeWord (.sneVxVy x y) rfl,
    complete_skipIf_decide s (s.getV x = s.getV y), complete_skipIf_decide_not s (s.getV x = s.getV y)⟩

end Sys2Proof.Machine

namespace Sys2Proof.Machine

/-! ### Values of the arithmetic laws (42_load_alu.md R120) -/

section
variable (a b : Byte)

@[simp] theorem addByte_toNat : (addByte a b).toNat = (a.toNat + b.toNat) % 256 := by
  simp only [addByte, BitVec.toNat_ofNat]
  omega

/-- The wrapping difference, by whether it borrows. -/
theorem subByte_toNat :
    (subByte a b).toNat = if b.toNat ≤ a.toNat then a.toNat - b.toNat else a.toNat + 256 - b.toNat := by
  have ha : a.toNat < 256 := a.isLt
  have hb : b.toNat < 256 := b.isLt
  simp only [subByte, BitVec.toNat_ofNat]
  split <;> omega

@[simp] theorem shiftRightByte_toNat : (shiftRightByte a).toNat = a.toNat / 2 :=
  BitVec.toNat_ushiftRight a 1

@[simp] theorem shiftLeftByte_toNat : (shiftLeftByte a).toNat = 2 * a.toNat % 256 := by
  rw [shiftLeftByte, BitVec.toNat_shiftLeft, Nat.shiftLeft_eq, Nat.mul_comm]

/-- A flag that reports a condition (10_state.md R22). -/
theorem flagByte_decide (p : Prop) [Decidable p] : flagByte (decide p) = if p then 1 else 0 := by
  simp only [flagByte, decide_eq_true_eq]

/-- A flag that reports one bit of a byte has that bit as its value. -/
theorem flagByte_getLsbD_toNat (k : Nat) : (flagByte (a.getLsbD k)).toNat = a.toNat / 2 ^ k % 2 := by
  rw [← BitVec.testBit_toNat, ← Nat.toNat_testBit]
  cases a.toNat.testBit k <;> rfl

theorem shiftRightFlag_toNat : (flagByte (shiftRightFlag a)).toNat = a.toNat % 2 := by
  rw [shiftRightFlag, flagByte_getLsbD_toNat, pow_zero, Nat.div_one]

/-- Bit 7 of a byte is all that is above its low 7 bits. -/
theorem shiftLeftFlag_toNat : (flagByte (shiftLeftFlag a)).toNat = a.toNat / 128 := by
  have ha : a.toNat < 256 := a.isLt
  rw [shiftLeftFlag, flagByte_getLsbD_toNat]
  omega

end

/-! ### The execute phases that write a register, or a result and a flag (10_state.md R21 to R23) -/

section
variable (s : State) (x : RegIdx)

/-- An execute phase that completes with one register written. -/
theorem complete_setV (b : Byte) :
    ∃ t, complete (s.setV x b) = .next t ∧ t.status = .running ∧ t.getV x = b ∧ UnchangedExcept [.v x, .status] s t :=
  ⟨_, rfl, rfl, State.getV_setV_same s x b,
    ((keepsExcept_setV s x b).trans (keepsExcept_setStatus _ .running)).unchangedExcept⟩

/-- An execute phase that completes with one register written, its value given bit by bit. -/
theorem complete_setV_getLsbD {b : Byte} {bit : Nat → Bool} (hb : ∀ k, b.getLsbD k = bit k) :
    ∃ t, complete (s.setV x b) = .next t ∧ t.status = .running ∧ (∀ k, (t.getV x).getLsbD k = bit k) ∧
      UnchangedExcept [.v x, .status] s t := by
  obtain ⟨t, hexec, hrun, rfl, hkeep⟩ := complete_setV s x b
  exact ⟨t, hexec, hrun, hb, hkeep⟩

/-- An execute phase that completes with a result and a flag written: the flag wins when VF is the destination (R23). -/
theorem complete_setResultAndFlag (b : Byte) (f : Bool) :
    ∃ t, complete (s.setResultAndFlag x b f) = .next t ∧ t.status = .running ∧ (x ≠ vf → t.getV x = b) ∧
      t.getV vf = flagByte f ∧ UnchangedExcept [.v x, .v vf, .status] s t := by
  refine ⟨_, rfl, rfl, fun hx => ?_, State.getV_setV_same _ vf _,
    ((keepsExcept_setResultAndFlag s x b f).trans (keepsExcept_setStatus _ .running)).unchangedExcept⟩
  rw [State.getV_setStatus, State.getV_setResultAndFlag, if_neg hx, if_pos rfl]

/-- A subtraction that completes, whichever operand is the minuend (R137, R139). -/
theorem complete_subByte_noBorrowFlag (a b : Byte) :
    ∃ t, complete (s.setResultAndFlag x (subByte a b) (noBorrowFlag a b)) = .next t ∧ t.status = .running ∧
      (x ≠ vf → (t.getV x).toNat = if b.toNat ≤ a.toNat then a.toNat - b.toNat else a.toNat + 256 - b.toNat) ∧
      t.getV vf = (if b.toNat ≤ a.toNat then 1 else 0) ∧ UnchangedExcept [.v x, .v vf, .status] s t := by
  obtain ⟨t, hexec, hrun, hresult, hflag, hkeep⟩ := complete_setResultAndFlag s x (subByte a b) (noBorrowFlag a b)
  exact ⟨t, hexec, hrun, fun hx => hresult hx ▸ subByte_toNat a b, hflag.trans (flagByte_decide _), hkeep⟩

end

/-! ### Loads, arithmetic, logic, shifts, random (42_load_alu.md R130 to R141) -/

/-- Settles O15: the register written is the one that holds the immediate. -/
theorem ldVxNnLoadsImmediate : Obligations.LdVxNnLoadsImmediate := fun x nn s =>
  ⟨decodeWord_encodeWord (.ldVxNn x nn) rfl, complete_setV s x nn⟩

/-- Settles O16: one register is written, with the sum modulo 256. -/
theorem addVxNnWrapsWithoutFlag : Obligations.AddVxNnWrapsWithoutFlag := by
  intro x nn s
  obtain ⟨t, hexec, hrun, hx, hkeep⟩ := complete_setV s x (addByte (s.getV x) nn)
  exact ⟨decodeWord_encodeWord (.addVxNn x nn) rfl, t, hexec, hrun, hx ▸ addByte_toNat _ nn, hkeep⟩

/-- Settles O17: one register is written, with what the other held. -/
theorem ldVxVyCopies : Obligations.LdVxVyCopies := fun x y s =>
  ⟨decodeWord_encodeWord (.ldVxVy x y) rfl, complete_setV s x (s.getV y)⟩

/-- Settles O18: one register is written, with a bitwise operation of the two. -/
theorem logicIsBitwiseWithoutFlag : Obligations.LogicIsBitwiseWithoutFlag := fun x y s =>
  ⟨decodeWord_encodeWord (.orVxVy x y) rfl, decodeWord_encodeWord (.andVxVy x y) rfl,
    decodeWord_encodeWord (.xorVxVy x y) rfl, complete_setV_getLsbD s x fun _ => BitVec.getLsbD_or,
    complete_setV_getLsbD s x fun _ => BitVec.getLsbD_and, complete_setV_getLsbD s x fun _ => BitVec.getLsbD_xor⟩

/-- Settles O19: the sum and then the carry are written, both of the old operands. -/
theorem addVxVyWrapsAndCarries : Obligations.AddVxVyWrapsAndCarries := by
  intro x y s
  obtain ⟨t, hexec, hrun, hsum, hcarry, hkeep⟩ :=
    complete_setResultAndFlag s x (addByte (s.getV x) (s.getV y)) (carryFlag (s.getV x) (s.getV y))
  exact ⟨decodeWord_encodeWord (.addVxVy x y) rfl, t, hexec, hrun, fun hx => hsum hx ▸ addByte_toNat _ _,
    hcarry.trans (flagByte_decide _), hkeep⟩

/-- Settles O20: the subtraction with `Vx` as the minuend. -/
theorem subVxVyWrapsAndReportsNoBorrow : Obligations.SubVxVyWrapsAndReportsNoBorrow := fun x y s =>
  ⟨decodeWord_encodeWord (.subVxVy x y) rfl, complete_subByte_noBorrowFlag s x (s.getV x) (s.getV y)⟩

/-- Settles O21: the subtraction with `Vy` as the minuend. -/
theorem subnVxVyWrapsAndReportsNoBorrow : Obligations.SubnVxVyWrapsAndReportsNoBorrow := fun x y s =>
  ⟨decodeWord_encodeWord (.subnVxVy x y) rfl, complete_subByte_noBorrowFlag s x (s.getV y) (s.getV x)⟩

/-- Settles O22: the shifted byte and then the bit shifted out are written, both of the old `Vx`. -/
theorem shiftsMoveOneBitIntoVf : Obligations.ShiftsMoveOneBitIntoVf := by
  refine fun x y s => ⟨decodeWord_encodeWord (.shrVx x y) rfl, decodeWord_encodeWord (.shlVx x y) rfl, ?_, ?_⟩
  · obtain ⟨t, hexec, hrun, hhalf, hout, hkeep⟩ :=
      complete_setResultAndFlag s x (shiftRightByte (s.getV x)) (shiftRightFlag (s.getV x))
    exact ⟨t, hexec, hrun, fun hx => hhalf hx ▸ shiftRightByte_toNat _, hout ▸ shiftRightFlag_toNat _, hkeep⟩
  · obtain ⟨t, hexec, hrun, hdouble, hout, hkeep⟩ :=
      complete_setResultAndFlag s x (shiftLeftByte (s.getV x)) (shiftLeftFlag (s.getV x))
    exact ⟨t, hexec, hrun, fun hx => hdouble hx ▸ shiftLeftByte_toNat _, hout ▸ shiftLeftFlag_toNat _, hkeep⟩

/-- Settles O23: one register is written with the masked random byte, and that byte is then consumed. -/
theorem rndMasksOneFreshByte : Obligations.RndMasksOneFreshByte := by
  intro x nn s
  have hkeep := (keepsExcept_setV s x (s.rand &&& nn)).trans (keepsExcept_usedRand _)
  have hx : ((s.setV x (s.rand &&& nn)).usedRand.setStatus .running).getV x = s.rand &&& nn :=
    State.getV_setV_same s x _
  exact ⟨decodeWord_encodeWord (.rndVxNn x nn) rfl, _, rfl, rfl, fun b hb => s.rand_some b hb ▸ hx,
    fun hnone => s.rand_none hnone ▸ hx, rfl, rfl,
    (hkeep.trans (keepsExcept_setStatus _ .running)).unchangedExcept⟩

end Sys2Proof.Machine

namespace Sys2Proof.Machine

/-! ### What the execute phases of index register and memory share (43_index_memory.md R150 to R157) -/

section
variable (s : State)

/-- An execute phase that completes with `I` written. -/
theorem complete_setI (x : Word) :
    ∃ t, complete (s.setI x) = .next t ∧ t.status = .running ∧ t.i = x ∧ UnchangedExcept [.i, .status] s t :=
  ⟨_, rfl, rfl, rfl, ((keepsExcept_setI s x).trans (keepsExcept_setStatus _ .running)).unchangedExcept⟩

/-- An execute phase that completes with bytes stored from `I` on: memory outside them is kept (20_memory.md R54). -/
theorem complete_setMem_writeBytes (bs : List Byte) :
    ∃ t, complete (s.setMem (s.mem.writeBytes s.i.toNat bs)) = .next t ∧ t.status = .running ∧
      t.mem = s.mem.writeBytes s.i.toNat bs ∧
      (∀ c, c < s.i.toNat ∨ s.i.toNat + bs.length ≤ c → t.mem.read c = s.mem.read c) ∧
      UnchangedExcept [.mem, .status] s t :=
  ⟨_, rfl, rfl, rfl, fun c hc => Memory.read_writeBytes_outside s.mem s.i.toNat c bs hc,
    ((keepsExcept_setMem s _).trans (keepsExcept_setStatus _ .running)).unchangedExcept⟩

/-- An access whose last byte, at `I + n`, is past 0xFFF halts before anything is read or written (R153). -/
theorem withRange_succ_haltedAt {a : Word} (hpc : s.pc = a + 2) (n : Nat) (hout : 0xFFF < s.i.toNat + n)
    (k : State → Host.Outcome State Fault Refusal) :
    ∃ t, withRange (n + 1) k s = .next t ∧ HaltedAt .memoryAccess 0x1000 a s t :=
  ⟨_, withRange_outside s (n + 1) k n.succ_ne_zero (Nat.succ_lt_succ hout),
    takeFault_haltedAt hpc .memoryAccess 0x1000⟩

end

/-! ### `Fx55` and `Fx65` (43_index_memory.md R156, R157) -/

/-- Settles O29, by whether the byte for `Vx` is inside memory: the stored list is `V0` to `Vx`, one byte each from `I` on. -/
theorem ldMemVxStoresRegisters : Obligations.LdMemVxStoresRegisters := by
  refine fun x a s hpc => ⟨decodeWord_encodeWord (.ldMemVx x) rfl, fun hin => ?_, fun hout => ?_⟩
  · obtain ⟨t, hexec, hrun, hmem, houtside, hkeep⟩ := complete_setMem_writeBytes s (s.firstV (x.toNat + 1))
    have hlen : (s.firstV (x.toNat + 1)).length = x.toNat + 1 := by
      rw [State.firstV_length, Nat.min_eq_left x.isLt]
    rw [hlen] at houtside
    exact ⟨t, (exec_ldMemVx_inside x s hin).trans hexec, hrun,
      fun k hk => hmem ▸ s.read_writeBytes_firstV x k hin hk,
      fun c hc => houtside c (hc.imp_right Nat.succ_le_of_lt), hkeep⟩
  · exact withRange_succ_haltedAt s hpc x.toNat hout (storeRegisters x)

/-- `Fx65` with its whole range inside memory loads the registers and completes (R157). -/
theorem exec_ldVxMem_inside (x : RegIdx) (s : State) (hin : s.i.toNat + x.toNat ≤ 0xFFF) :
    exec (.ldVxMem x) s = complete (s.loadV (x.toNat + 1)) :=
  withRange_inside s (x.toNat + 1) (loadRegisters x) (.inr (Nat.succ_le_succ hin))

theorem firstRegisters_subset_allRegisters {n : Nat} (hn : n ≤ 16) : firstRegisters n ⊆ allRegisters :=
  List.map_subset _ (List.range_subset.2 hn)

/-- Settles O30, by whether the byte for `Vx` is inside memory: the loads write no more than the registers `V0` to `Vx`. -/
theorem ldVxMemLoadsRegisters : Obligations.LdVxMemLoadsRegisters := by
  refine fun x a s hpc => ⟨decodeWord_encodeWord (.ldVxMem x) rfl, fun hin => ?_, fun hout => ?_⟩
  · have hx : x.toNat + 1 ≤ 16 := x.isLt
    have hkeep := (keepsExcept_loadV s (x.toNat + 1)).trans (keepsExcept_setStatus _ .running)
    have hsub : firstRegisters (x.toNat + 1) ++ [.status] ⊆ .status :: allRegisters :=
      List.append_subset.2 ⟨List.subset_cons_of_subset _ (firstRegisters_subset_allRegisters hx), by simp⟩
    refine ⟨_, exec_ldVxMem_inside x s hin, rfl, fun k => ?_, (hkeep.mono hsub).unchangedExcept⟩
    simp only [State.getV_setStatus, State.getV_loadV s _ hx, Nat.lt_succ_iff]
  · exact withRange_succ_haltedAt s hpc x.toNat hout (loadRegisters x)

/-! ### `Annn`, `Fx1E` and `Fx29` (43_index_memory.md R150 to R152) -/

/-- Settles O24: `I` is the field itself. -/
theorem ldINnnLoadsIndex : Obligations.LdINnnLoadsIndex := by
  intro nnn s
  obtain ⟨t, hexec, hrun, hi, hkeep⟩ := complete_setI s (zextAddr nnn)
  exact ⟨decodeWord_encodeWord (.ldINnn nnn) rfl, t, hexec, hrun, hi ▸ zextAddr_toNat nnn, hkeep⟩

/-- Settles O25: `I` and then VF are written, both of the old `I` and `Vx`. -/
theorem addIVxWrapsAndReportsOverflow : Obligations.AddIVxWrapsAndReportsOverflow := by
  intro x s
  have hkeep := (keepsExcept_setI s (addIndex s.i (s.getV x))).trans
    (keepsExcept_setV _ vf (flagByte (indexOverflowFlag s.i (s.getV x))))
  exact ⟨decodeWord_encodeWord (.addIVx x) rfl, _, rfl, rfl, addIndex_toNat s.i (s.getV x),
    (State.getV_setV_same _ vf _).trans (flagByte_decide _),
    (hkeep.trans (keepsExcept_setStatus _ .running)).unchangedExcept⟩

/-- Settles O26: `I` is the address of the glyph. -/
theorem ldFVxPointsAtGlyph : Obligations.LdFVxPointsAtGlyph := by
  intro x s
  obtain ⟨t, hexec, hrun, hi, hkeep⟩ := complete_setI s (s.glyphAddress x)
  exact ⟨decodeWord_encodeWord (.ldFVx x) rfl, t, hexec, hrun, hi ▸ s.glyphAddress_toNat x, hkeep⟩

/-! ### `Fx33` (43_index_memory.md R155) -/

/-- A stored byte is read back at its own address (20_memory.md R54, R56). -/
theorem Memory.read_writeBytes_of_getElem? (m : Memory) (a : Nat) (bs : List Byte)
    (hin : a + bs.length ≤ Config.memSize) {k : Nat} {b : Byte} (hk : bs[k]? = some b) :
    (m.writeBytes a bs).read (a + k) = b := by
  rw [Memory.read_writeBytes m a _ bs hin, if_pos (Nat.le_add_right a k), Nat.add_sub_cancel_left, hk, Option.getD_some]

/-- The three digits in memory: each is below 256, so the byte that holds it has it as its value. -/
theorem Memory.read_writeBytes_decimalDigits (m : Memory) (a : Nat) (b : Byte) (hin : a + 2 ≤ 0xFFF) :
    ((m.writeBytes a (decimalDigits b)).read a).toNat = b.toNat / 100 ∧
    ((m.writeBytes a (decimalDigits b)).read (a + 1)).toNat = b.toNat / 10 % 10 ∧
    ((m.writeBytes a (decimalDigits b)).read (a + 2)).toNat = b.toNat % 10 := by
  have hb : b.toNat < 256 := b.isLt
  have hread {k : Nat} {d : Byte} (hk : (decimalDigits b)[k]? = some d) :
      ((m.writeBytes a (decimalDigits b)).read (a + k)).toNat = d.toNat :=
    congrArg BitVec.toNat (m.read_writeBytes_of_getElem? a (decimalDigits b) (Nat.succ_le_succ hin) hk)
  refine ⟨(hread (k := 0) rfl).trans ?_, (hread (k := 1) rfl).trans ?_, (hread (k := 2) rfl).trans ?_⟩ <;>
    rw [BitVec.toNat_ofNat] <;> omega

/-- `Fx33` with its whole range inside memory stores the digits and completes (R155). -/
theorem exec_ldBVx_inside (x : RegIdx) (s : State) (hin : s.i.toNat + 2 ≤ 0xFFF) :
    exec (.ldBVx x) s = complete (s.setMem (s.mem.writeBytes s.i.toNat (decimalDigits (s.getV x)))) :=
  withRange_inside s 3 (storeDigits x) (.inr (Nat.succ_le_succ hin))

/-- Settles O28, by whether the byte for the units is inside memory. -/
theorem ldBVxStoresDecimalDigits : Obligations.LdBVxStoresDecimalDigits := by
  refine fun x a s hpc => ⟨decodeWord_encodeWord (.ldBVx x) rfl, fun hin => ?_, fun hout => ?_⟩
  · obtain ⟨t, hexec, hrun, hmem, houtside, hkeep⟩ := complete_setMem_writeBytes s (decimalDigits (s.getV x))
    obtain ⟨hhundreds, htens, hunits⟩ := s.mem.read_writeBytes_decimalDigits s.i.toNat (s.getV x) hin
    rw [← hmem] at hhundreds htens hunits
    exact ⟨t, (exec_ldBVx_inside x s hin).trans hexec, hrun, hhundreds, htens, hunits,
      fun c hc => houtside c (hc.imp_right Nat.succ_le_of_lt), hkeep⟩
  · exact withRange_succ_haltedAt s hpc 2 hout (storeDigits x)

end Sys2Proof.Machine

namespace Sys2Proof.Machine

/-! ### `Dxyn` (44_display.md R171 to R178) -/

theorem flagByte_eq_one_iff (f : Bool) : flagByte f = 1 ↔ f = true := by
  cases f <;> decide

/-- A range-checked access that leaves the machine Running had its whole range inside memory (43_index_memory.md R153). -/
theorem withRange_running {len : Nat} {k : State → Host.Outcome State Fault Refusal} {s t : State}
    (h : withRange len k s = .next t) (hrun : t.status = .running) : s.inMemory len = true ∧ k s = .next t := by
  unfold withRange at h
  split at h
  · next hin => exact ⟨hin, h⟩
  · cases h
    cases hrun

section
variable (x y : RegIdx) (n : Nibble) (s : State)

/-- The sprite that `Dxyn` draws from `s` has a 1 bit over an on-screen position (R172 to R174). -/
def State.drawnBit (yy xx : Nat) : Bool :=
  onScreenBit s.mem s.i.toNat (s.spriteX x) (s.spriteY y) n.toNat yy xx

theorem State.drawnBit_iff (yy xx : Nat) :
    s.drawnBit x y n yy xx = true ↔ yy ≤ 31 ∧ xx ≤ 63 ∧
      spriteBit s.mem s.i.toNat ((s.getV x).toNat % 64) ((s.getV y).toNat % 32) n.toNat yy xx = true := by
  rw [State.drawnBit, onScreenBit, Bool.and_eq_true, decide_eq_true_eq, and_assoc]
  rfl

/-- The sprite bits are read from memory, `I` and the two coordinate registers alone. -/
theorem State.drawnBit_congr {s t : State} (hmem : t.mem = s.mem) (hi : t.i = s.i) (hx : t.getV x = s.getV x)
    (hy : t.getV y = s.getV y) : t.drawnBit x y n = s.drawnBit x y n := by
  funext yy xx
  simp only [State.drawnBit, State.spriteX, State.spriteY, hmem, hi, hx, hy]

/-- `Dxyn` with its sprite inside memory draws (R175, R177). -/
theorem exec_drwVxVyN_inside {s : State} (hin : s.inMemory n.toNat = true) :
    exec (.drwVxVyN x y n) s = drawAt x y n s := if_pos hin

/-- A drawing that completes: the pixels under 1 bits flipped, VF = 1 when one of them was on (R171, R176). -/
theorem drawAt_completes :
    ∃ t, drawAt x y n s = .next t ∧ t.status = .running ∧
      (∀ yy xx, Display.pixel t.disp yy xx = (Display.pixel s.disp yy xx ^^ s.drawnBit x y n yy xx)) ∧
      (t.getV vf = 1 ∨ t.getV vf = 0) ∧
      (t.getV vf = 1 ↔ ∃ yy xx, s.drawnBit x y n yy xx = true ∧ Display.pixel s.disp yy xx = true) ∧
      KeepsExcept [.disp, .v vf, .status] s t := by
  obtain ⟨hpixel, hcollision⟩ :=
    Display.drawSprite_spec s.mem s.i.toNat (s.spriteX x) (s.spriteY y) n.toNat s.disp
  have hkeep := (keepsExcept_setDisp s (s.drawn x y n).1).trans (keepsExcept_setV _ vf (flagByte (s.drawn x y n).2))
  refine ⟨_, rfl, rfl, hpixel, ?_, ?_, hkeep.trans (keepsExcept_setStatus _ .running)⟩
  · rw [State.getV_setStatus, State.getV_setV_same]
    exact (flagByte_eq_zero_or_one _).symm
  · rw [State.getV_setStatus, State.getV_setV_same, flagByte_eq_one_iff]
    exact hcollision

end

/-- Settles O6, by whether the sprite lies inside memory: the drawing loop in closed form, or the fault before it. -/
theorem drwFlipsSpritePixelsAndReportsCollision : Obligations.DrwFlipsSpritePixelsAndReportsCollision := by
  refine fun x y n a s hpc => ⟨decodeWord_encodeWord (.drwVxVyN x y n) rfl, fun hin => ?_, fun hn hout => ?_⟩
  · obtain ⟨t, hdraw, hrun, hpixel, hflag, hcollision, hkeep⟩ := drawAt_completes x y n s
    have hinside : s.inMemory n.toNat = true := (s.inMemory_iff n.toNat).2 (hin.imp_left (congrArg BitVec.toNat))
    simp only [State.drawnBit_iff, and_assoc] at hcollision
    exact ⟨t, (exec_drwVxVyN_inside x y n hinside).trans hdraw, hrun, hpixel, hflag, hcollision, hkeep.unchangedExcept⟩
  · exact ⟨_, withRange_outside s n.toNat (drawAt x y n) (fun h0 => hn (BitVec.eq_of_toNat_eq h0)) hout,
      takeFault_haltedAt hpc .memoryAccess 0x1000⟩

/-- Settles O7: the first draw keeps memory, `I` and the coordinates, so the second flips the same pixels back, and of these
it finds on the ones that were off. -/
theorem drawingTwiceRestoresDisplay : Obligations.DrawingTwiceRestoresDisplay := by
  intro x y n s t hx hy hexec hrun
  obtain ⟨hinside, hfirst⟩ := withRange_running hexec hrun
  obtain ⟨t', hfirst', -, hpixel, -, -, hkeep⟩ := drawAt_completes x y n s
  obtain rfl : t = t' := Host.Outcome.next.inj (hfirst.symm.trans hfirst')
  have hi : t.i = s.i := hkeep .i (by simp)
  have hinside' : t.inMemory n.toNat = true := by rwa [State.inMemory, hi]
  have hbit : t.drawnBit x y n = s.drawnBit x y n :=
    State.drawnBit_congr x y n (hkeep .mem (by simp)) hi (hkeep (.v x) (by simpa using hx))
      (hkeep (.v y) (by simpa using hy))
  obtain ⟨u, hsecond, hrun', hpixel', -, hcollision, -⟩ := drawAt_completes x y n t
  refine ⟨u, (exec_drwVxVyN_inside x y n hinside').trans hsecond, hrun', ?_, hcollision.trans ?_⟩
  · refine Display.ext_pixel _ _ fun yy xx => ?_
    rw [hpixel', hpixel, hbit, Bool.xor_assoc, Bool.xor_self, Bool.xor_false]
  · have hwasOff : ∀ yy xx, s.drawnBit x y n yy xx = true ∧ Display.pixel t.disp yy xx = true ↔
        s.drawnBit x y n yy xx = true ∧ Display.pixel s.disp yy xx = false := by
      refine fun yy xx => and_congr_right fun hone => ?_
      rw [hpixel, hone, Bool.xor_true, Bool.not_eq_true']
    calc (∃ yy xx, t.drawnBit x y n yy xx = true ∧ Display.pixel t.disp yy xx = true)
      _ ↔ ∃ yy xx, s.drawnBit x y n yy xx = true ∧ Display.pixel s.disp yy xx = false := by
        simp only [hbit, hwasOff]
      _ ↔ _ := by simp only [State.drawnBit_iff, and_assoc]

/-! ### `00E0` (44_display.md R170) -/

/-- The host reads a display with every pixel off as 2048 zeros (46_host_operations.md R205). -/
theorem State.readDisplay_of_pixels_off {s : State} (h : ∀ y x, Display.pixel s.disp y x = false) :
    s.readDisplay = List.replicate 2048 false := by
  simp [State.readDisplay, h]

/-- Settles O5: only the display is written, and every pixel of the cleared one is off. -/
theorem clsClearsDisplay : Obligations.ClsClearsDisplay := by
  refine ⟨decodeWord_encodeWord .cls rfl, fun s => ?_⟩
  have hkeep := (keepsExcept_setDisp s Display.clear).trans (keepsExcept_setStatus _ .running)
  exact ⟨_, rfl, rfl, Display.pixel_clear, State.readDisplay_of_pixels_off Display.pixel_clear, hkeep.unchangedExcept⟩

end Sys2Proof.Machine

namespace Sys2Proof.Machine

/-! ### A step at a given instruction (40_step_cycle.md R90 to R95) -/

section
variable {s : State}

/-- A step that fetches the word of an instruction is that instruction's execute phase, after the tick and the `PC` advance. -/
theorem step_of_fetch_encodeWord {i : Instr} (hwf : i.wellFormed = true) (hrun : s.status ≠ .halted)
    (hfetch : s.fetch? = some (encodeWord i)) : step s = exec i s.tick.advance := by
  rw [step_exec s _ hrun hfetch, decodeWord_encodeWord i hwf]

/-! ### `Fx0A` (45_keypad_timers.md R189 to R191) -/

theorem State.chooseKey?_none_of_keys_up (hup : ∀ k, k < 16 → s.key k = false) : s.chooseKey? = none := by
  refine s.chooseKey?_none.2 (List.eq_nil_iff_forall_not_mem.2 fun k hk => ?_)
  obtain ⟨hlt, hdown⟩ := (s.mem_pressed k).1 hk
  exact Bool.false_ne_true ((hup k hlt).symm.trans hdown)

theorem State.chooseKey?_some_of_key_down (hdown : ∃ k, k < 16 ∧ s.key k = true) : ∃ k, s.chooseKey? = some k := by
  refine Option.ne_none_iff_exists'.1 fun hnone => ?_
  obtain ⟨k, hk⟩ := hdown
  exact List.ne_nil_of_mem ((s.mem_pressed k).2 hk) (s.chooseKey?_none.1 hnone)

/-- With no key down `Fx0A` waits (R189). -/
theorem exec_ldVxK_of_keys_up (x : RegIdx) (hup : ∀ k, k < 16 → s.key k = false) : exec (.ldVxK x) s = hold s := by
  simp only [exec, execLdVxK, State.chooseKey?_none_of_keys_up hup]

/-- With a key down `Fx0A` stores the number of some pressed key (R190; log 2). -/
theorem exec_ldVxK_of_key_down (x : RegIdx) (hdown : ∃ k, k < 16 ∧ s.key k = true) :
    ∃ k, k < 16 ∧ s.key k = true ∧ exec (.ldVxK x) s = complete (s.setV x (BitVec.ofNat 8 k)).usedKeyDraw := by
  obtain ⟨k, hchoice⟩ := State.chooseKey?_some_of_key_down hdown
  obtain ⟨hlt, hpressed⟩ := (s.mem_pressed k).1 (s.chooseKey?_mem k hchoice)
  exact ⟨k, hlt, hpressed, by simp only [exec, execLdVxK, hchoice]⟩

/-- Waiting takes the `PC` advance of its own step back (R189). -/
theorem hold_advance (s : State) : hold s.advance = .next (s.setStatus .awaitingKey) := by
  rw [hold, State.fetchedFrom_advance]
  rfl

end

/-- Settles O34: waiting takes the `PC` advance back, so the tick and the run status are all that is left of the step. -/
theorem waitingStepOnlyTicks : Obligations.WaitingStepOnlyTicks := by
  intro x s hrun hfetch hup
  have hstep : step s = .next (s.tick.setStatus .awaitingKey) :=
    calc step s
      _ = exec (.ldVxK x) s.tick.advance := step_of_fetch_encodeWord rfl hrun hfetch
      _ = hold s.tick.advance := exec_ldVxK_of_keys_up x hup
      _ = _ := hold_advance s.tick
  exact ⟨_, hstep, rfl, tickTimer_toNat s.dt, tickTimer_toNat s.st,
    ((keepsExcept_tick s).trans (keepsExcept_setStatus _ .awaitingKey)).unchangedExcept⟩

/-- Settles O33, by whether a key is down: a key number is below 256, so the byte that holds it has it as its value. -/
theorem ldVxKWaitsOrStoresPressedKey : Obligations.LdVxKWaitsOrStoresPressedKey := by
  refine fun x a s hpc => ⟨decodeWord_encodeWord (.ldVxK x) rfl, fun hup => ?_, fun hdown => ?_⟩
  · have hkeep := (keepsExcept_setPc s s.fetchedFrom).trans (keepsExcept_setStatus _ .awaitingKey)
    exact ⟨_, exec_ldVxK_of_keys_up x hup, rfl, State.fetchedFrom_of_pc hpc, hkeep.unchangedExcept⟩
  · obtain ⟨k, hlt, hpressed, hexec⟩ := exec_ldVxK_of_key_down x hdown
    have hkeep := (keepsExcept_setV s x (BitVec.ofNat 8 k)).trans (keepsExcept_usedKeyDraw _)
    have hvalue : (BitVec.ofNat 8 k).toNat = k := Nat.mod_eq_of_lt (hlt.trans (by decide))
    refine ⟨_, hexec, rfl, ⟨k, hlt, hpressed, ?_⟩, (hkeep.trans (keepsExcept_setStatus _ .running)).unchangedExcept⟩
    rw [State.getV_setStatus, State.getV_usedKeyDraw, State.getV_setV_same, hvalue]

/-! ### `Ex9E` and `ExA1` (45_keypad_timers.md R185 to R187) -/

section
variable {s : State} {x : RegIdx}

/-- `Ex9E` on a key 0 to 15 skips when it is down (R185). -/
theorem exec_skpVx_legal (hlegal : (s.getV x).toNat ≤ 15) :
    exec (.skpVx x) s = complete (s.skipIf (decide (s.key (s.getV x).toNat = true))) := by
  rw [Bool.decide_eq_true]
  exact withKey_legal s x skipWhenDown hlegal

/-- `ExA1` on a key 0 to 15 skips when it is up (R186). -/
theorem exec_sknpVx_legal (hlegal : (s.getV x).toNat ≤ 15) :
    exec (.sknpVx x) s = complete (s.skipIf (decide (¬ s.key (s.getV x).toNat = true))) := by
  rw [decide_not, Bool.decide_eq_true]
  exact withKey_legal s x skipWhenUp hlegal

/-- A key test with `Vx` above 15 halts, with the value unmasked as the datum (R187). -/
theorem withKey_haltedAt {a : Word} (hpc : s.pc = a + 2) (hbig : 15 < (s.getV x).toNat)
    (k : Bool → State → Host.Outcome State Fault Refusal) :
    ∃ t, withKey x k s = .next t ∧ HaltedAt .keyIndex ((s.getV x).setWidth 16) a s t :=
  ⟨_, withKey_illegal s x k hbig, takeFault_haltedAt hpc .keyIndex _⟩

end

/-- Settles O32, by whether `Vx` numbers a key: the two conditions are each other's negation. -/
theorem keySkipsTestOneKey : Obligations.KeySkipsTestOneKey := by
  refine fun x a s hpc => ⟨decodeWord_encodeWord (.skpVx x) rfl, decodeWord_encodeWord (.sknpVx x) rfl,
    fun hlegal => ?_, fun hbig => ⟨withKey_haltedAt hpc hbig skipWhenDown, withKey_haltedAt hpc hbig skipWhenUp⟩⟩
  have hskip : s.pc + 2 = a + 4 := by rw [hpc, BitVec.add_assoc]; rfl
  rw [exec_skpVx_legal hlegal, exec_sknpVx_legal hlegal, ← hskip, ← hpc]
  exact ⟨complete_skipIf_decide s _, complete_skipIf_decide_not s _⟩

/-! ### `Fx07`, `Fx15` and `Fx18` (45_keypad_timers.md R192 to R194) -/

section
variable (s : State)

/-- An execute phase that completes with the delay timer written. -/
theorem complete_setDt (b : Byte) :
    ∃ t, complete (s.setDt b) = .next t ∧ t.status = .running ∧ t.dt = b ∧ UnchangedExcept [.dt, .status] s t :=
  ⟨_, rfl, rfl, rfl, ((keepsExcept_setDt s b).trans (keepsExcept_setStatus _ .running)).unchangedExcept⟩

/-- An execute phase that completes with the sound timer written. -/
theorem complete_setSt (b : Byte) :
    ∃ t, complete (s.setSt b) = .next t ∧ t.status = .running ∧ t.st = b ∧ UnchangedExcept [.st, .status] s t :=
  ⟨_, rfl, rfl, rfl, ((keepsExcept_setSt s b).trans (keepsExcept_setStatus _ .running)).unchangedExcept⟩

end

/-- Settles O35: a whole step is the execute phase from the ticked state, so `Fx07` sees the ticked timer and nothing
counts a written one down. -/
theorem timerAccessFollowsTheTick : Obligations.TimerAccessFollowsTheTick := by
  refine fun x s => ⟨decodeWord_encodeWord (.ldVxDt x) rfl, decodeWord_encodeWord (.ldDtVx x) rfl,
    decodeWord_encodeWord (.ldStVx x) rfl, complete_setV s x s.dt, complete_setDt s (s.getV x),
    complete_setSt s (s.getV x), fun hrun => ⟨fun hfetch => ?_, fun hfetch => ?_, fun hfetch => ?_⟩⟩
  · obtain ⟨t, hexec, -, hread, hkeep⟩ := complete_setV s.tick.advance x (tickTimer s.dt)
    have hdt : t.dt = tickTimer s.dt := hkeep .dt (by simp)
    exact ⟨t, (step_of_fetch_encodeWord (i := .ldVxDt x) rfl hrun hfetch).trans hexec,
      hread ▸ tickTimer_toNat s.dt, hdt ▸ tickTimer_toNat s.dt⟩
  · obtain ⟨t, hexec, -, hdt, -⟩ := complete_setDt s.tick.advance (s.getV x)
    exact ⟨t, (step_of_fetch_encodeWord (i := .ldDtVx x) rfl hrun hfetch).trans hexec, hdt⟩
  · obtain ⟨t, hexec, -, hst, -⟩ := complete_setSt s.tick.advance (s.getV x)
    exact ⟨t, (step_of_fetch_encodeWord (i := .ldStVx x) rfl hrun hfetch).trans hexec, hst⟩

end Sys2Proof.Machine

namespace Sys2Proof.Machine

/-! ### What the host's operations do to a state (46_host_operations.md R200, R201, R204, R207) -/

section
variable (s : State)

theorem keepsExcept_setKeys (ks : Vector Bool Config.numKeys) : KeepsExcept [.keys] s (s.setKeys ks) := by
  intro p hp
  cases p with
  | keys => simp at hp
  | _ => exact rfl

theorem keepsExcept_setRandIn (x : Option Byte) : KeepsExcept [.randIn] s (s.setRandIn x) := by
  intro p hp
  cases p with
  | randIn => simp at hp
  | _ => exact rfl

/-- A new machine is the reset one, but for the two draw counters (R200; log 1, log 2). -/
theorem keepsExcept_create : KeepsExcept [.randDraws, .keyDraws] State.reset s.create := by
  intro p hp
  cases p with
  | randDraws | keyDraws => simp at hp
  | _ => exact rfl

@[simp] theorem State.key_setRandIn (x : Option Byte) (k : Nat) : (s.setRandIn x).key k = s.key k := rfl

theorem State.loadProgram?_of_fits {bytes : List Byte} (hfit : bytes.length ≤ 3584) :
    s.loadProgram? bytes = some (s.setMem (s.mem.writeBytes 0x200 bytes)) :=
  if_pos (decide_eq_true hfit)

theorem State.loadProgram?_of_too_long {bytes : List Byte} (hlong : 3584 < bytes.length) :
    s.loadProgram? bytes = none :=
  if_neg (by simpa [fitsMemory] using hlong)

theorem State.setKey?_of_lt {index : Nat} (hlt : index < 16) (pressed : Bool) :
    s.setKey? index pressed = some (s.setKeys (s.keys.set index pressed hlt)) :=
  dif_pos hlt

theorem State.setKey?_of_ge {index : Nat} (hge : 16 ≤ index) (pressed : Bool) : s.setKey? index pressed = none :=
  dif_neg (Nat.not_lt.2 hge)

theorem State.key_setKeys_set {index : Nat} (hlt : index < 16) (pressed : Bool) (k : Nat) :
    (s.setKeys (s.keys.set index pressed hlt)).key k = if k = index then pressed else s.key k := by
  by_cases hk : k < 16
  · simp [State.key, hk, Vector.getElem_set, eq_comm (a := index)]
  · have hne : k ≠ index := fun heq => hk (heq ▸ hlt)
    simp [State.key, hk, hne]

end

/-- Settles O55: a program that fits is stored in order from 0x200 on, all of it inside memory. -/
theorem loadProgramCopiesBytes : Obligations.LoadProgramCopiesBytes := by
  refine fun s bytes => ⟨fun hfit => ⟨_, s.loadProgram?_of_fits hfit, fun k b hk => ?_, fun c hc => ?_, ?_⟩,
    fun hlong => s.loadProgram?_of_too_long hlong⟩
  · have hinside : 0x200 + bytes.length ≤ 4096 := by omega
    exact Memory.read_writeBytes_of_getElem? s.mem 0x200 bytes hinside hk
  · exact Memory.read_writeBytes_outside s.mem 0x200 c bytes hc
  · exact (keepsExcept_setMem s _).unchangedExcept

/-- Settles O57: the keypad is written at the index, which is legal below 16 only. -/
theorem setKeySetsOneKey : Obligations.SetKeySetsOneKey := fun s _ pressed =>
  ⟨fun hlt => ⟨_, s.setKey?_of_lt hlt pressed, s.key_setKeys_set hlt pressed, (keepsExcept_setKeys s _).unchangedExcept⟩,
    fun hge => s.setKey?_of_ge hge pressed⟩

/-! ### The display as the host reads it (46_host_operations.md R205) -/

theorem State.readDisplay_length (s : State) : s.readDisplay.length = 2048 := by
  simp [State.readDisplay]

/-- Element `y * 64 + x`, of which `y` and `x` are the quotient and the remainder by 64. -/
theorem State.readDisplay_getElem? (s : State) {y x : Nat} (hy : y < 32) (hx : x < 64) :
    s.readDisplay[y * 64 + x]? = some (Display.pixel s.disp y x) := by
  have hbound : y * 64 + x < 32 * 64 := by omega
  have hrow : (y * 64 + x) / 64 = y := by omega
  have hcolumn : (y * 64 + x) % 64 = x := by omega
  rw [State.readDisplay, List.getElem?_map, List.getElem?_range hbound, Option.map_some, hrow, hcolumn]

/-- Settles O58: the list has one element per pixel, at its row-major index. -/
theorem readDisplayIsRowMajor : Obligations.ReadDisplayIsRowMajor := fun s =>
  ⟨s.readDisplay_length, fun _ _ => s.readDisplay_getElem?⟩

end Sys2Proof.Machine

namespace Sys2Proof.Machine

/-! ### The moves of the host, one equation per case (46_host_operations.md R210) -/

section
variable {h : Session} {bytes : List Byte} {index : Nat} {t : State}

theorem Session.move_loadProgram_of_closed (hclosed : h.mayLoad = false) : h.move (.loadProgram bytes) = none := by
  simp [Session.move, hclosed]

theorem Session.move_loadProgram_of_fits (hopen : h.mayLoad = true) (hfit : bytes.length ≤ 3584) :
    h.move (.loadProgram bytes) =
      some ({ machine := h.machine.setMem (h.machine.mem.writeBytes 0x200 bytes), mayLoad := false }, .done) := by
  simp only [Session.move, hopen, if_true, State.loadProgram?_of_fits _ hfit]

theorem Session.move_loadProgram_of_too_long (hopen : h.mayLoad = true) (hlong : 3584 < bytes.length) :
    h.move (.loadProgram bytes) = some (h, .failed) := by
  simp only [Session.move, hopen, if_true, State.loadProgram?_of_too_long _ hlong]

theorem Session.move_setKey_of_lt (hlt : index < 16) (pressed : Bool) :
    h.move (.setKey index pressed) =
      some ({ h with machine := h.machine.setKeys (h.machine.keys.set index pressed hlt) }, .done) := by
  simp only [Session.move, State.setKey?_of_lt _ hlt]

theorem Session.move_setKey_of_ge (hge : 16 ≤ index) (pressed : Bool) :
    h.move (.setKey index pressed) = some (h, .failed) := by
  simp only [Session.move, State.setKey?_of_ge _ hge]

theorem Session.move_step (hstep : step h.machine = .next t) :
    h.move .step = some ({ machine := t, mayLoad := false }, .done) := by
  simp only [Session.move, hstep]

theorem Session.move_stepWith {b : Byte} (hstep : step (h.machine.setRandIn (some b)) = .next t) :
    h.move (.stepWith b) = some ({ machine := t.setRandIn none, mayLoad := false }, .done) := by
  simp only [Session.move, hstep]

end

/-- Settles O56, by the moves' equations; a step always answers a next state (O43). -/
theorem programIsLoadedOnceBeforeStepping : Obligations.ProgramIsLoadedOnceBeforeStepping := by
  refine fun h bytes => ⟨Session.move_loadProgram_of_closed,
    fun hlong hopen => Session.move_loadProgram_of_too_long hopen hlong,
    fun hfit hopen => ⟨_, h.machine.loadProgram?_of_fits hfit, Session.move_loadProgram_of_fits hopen hfit⟩,
    ?_, fun b => ?_, fun index pressed => ⟨fun hlt => ?_, fun hge => Session.move_setKey_of_ge hge pressed⟩, rfl⟩
  · obtain ⟨t, hstep⟩ := everyStepAnswersNextState h.machine
    exact ⟨t, hstep, Session.move_step hstep⟩
  · obtain ⟨t, hstep⟩ := everyStepAnswersNextState (h.machine.setRandIn (some b))
    exact ⟨t, hstep, Session.move_stepWith hstep⟩
  · exact ⟨_, h.machine.setKey?_of_lt hlt pressed, Session.move_setKey_of_lt hlt pressed⟩

/-! ### The session's invariant (46_host_operations.md R203, R210) -/

/-- The parts the machine's invariant speaks of. -/
def invariantParts : List Part := [.mem, .i, .pc, .stack, .status, .cause, .faddr]

/-- Changing any other part keeps the invariant. -/
theorem State.Inv.of_keepsExcept {ps : List Part} {s t : State} (hinv : s.Inv) (hkeep : KeepsExcept ps s t)
    (hps : ∀ p ∈ invariantParts, p ∉ ps) : t.Inv := by
  have hsame : ∀ p ∈ invariantParts, p.SameData s t := fun p hp => hkeep p (hps p hp)
  have hmem : t.mem = s.mem := hsame .mem (by decide)
  have hi : t.i = s.i := hsame .i (by decide)
  have hpc : t.pc = s.pc := hsame .pc (by decide)
  have hstack : t.stack = s.stack := hsame .stack (by decide)
  have hstatus : t.status = s.status := hsame .status (by decide)
  have hcause : t.cause = s.cause := hsame .cause (by decide)
  have hfaddr : t.faddr = s.faddr := hsame .faddr (by decide)
  have hsp : t.sp = s.sp := congrArg List.length hstack
  have hfetch : t.fetch? = s.fetch? := by rw [State.fetch?, State.fetch?, hpc, hmem]
  exact {
    memCanonical := hmem ▸ hinv.memCanonical
    indexInRange := hi ▸ hinv.indexInRange
    pcInRange := hpc ▸ hinv.pcInRange
    depthInRange := hsp ▸ hinv.depthInRange
    entriesInRange := hstack ▸ hinv.entriesInRange
    causeRecorded := hstatus ▸ hcause ▸ hinv.causeRecorded
    datumRecorded := hstatus ▸ hfaddr ▸ hinv.datumRecorded
    waitsAtKeyWait := hstatus ▸ hfetch ▸ hinv.waitsAtKeyWait }

theorem State.Inv.setKeys {s : State} (hinv : s.Inv) (ks : Vector Bool Config.numKeys) : (s.setKeys ks).Inv :=
  hinv.of_keepsExcept (keepsExcept_setKeys s ks) (by decide)

theorem State.Inv.setRandIn {s : State} (hinv : s.Inv) (x : Option Byte) : (s.setRandIn x).Inv :=
  hinv.of_keepsExcept (keepsExcept_setRandIn s x) (by decide)

/-- A running machine waits for no key, so its invariant asks of memory only that it is canonical. -/
theorem State.Inv.setMem {s : State} (hinv : s.Inv) (hrun : s.status = .running) {m : Memory} (hwf : m.wf) :
    (s.setMem m).Inv where
  memCanonical := hwf
  indexInRange := hinv.indexInRange
  pcInRange := hinv.pcInRange
  depthInRange := hinv.depthInRange
  entriesInRange := hinv.entriesInRange
  causeRecorded := hinv.causeRecorded
  datumRecorded := hinv.datumRecorded
  waitsAtKeyWait := fun hwait => nomatch hrun.symm.trans hwait

theorem Session.Inv.create (s : State) : ({ machine := s.create, mayLoad := true } : Session).Inv where
  machineInv := resetMeetsInvariant.1.of_keepsExcept (keepsExcept_create s) (by decide)
  loadsWhileRunning := fun _ => rfl
  noByteHeld := rfl

section
variable {h : Session} (hinv : h.Inv)
include hinv

/-- Bytes are loaded while loading is open, into a machine that therefore runs (R201, R209). -/
theorem Session.Inv.setMem (hopen : h.mayLoad = true) {m : Memory} (hwf : m.wf) (mayLoad : Bool) :
    ({ machine := h.machine.setMem m, mayLoad } : Session).Inv where
  machineInv := hinv.machineInv.setMem (hinv.loadsWhileRunning hopen) hwf
  loadsWhileRunning := fun _ => hinv.loadsWhileRunning hopen
  noByteHeld := hinv.noByteHeld

theorem Session.Inv.setKeys (ks : Vector Bool Config.numKeys) :
    ({ h with machine := h.machine.setKeys ks } : Session).Inv where
  machineInv := hinv.machineInv.setKeys ks
  loadsWhileRunning := hinv.loadsWhileRunning
  noByteHeld := hinv.noByteHeld

end

/-- Settles O53, move by move: a load finds a running machine, and a step keeps the machine's invariant (O52) with or
without a byte ready. -/
theorem hostMovesKeepInvariant : Obligations.HostMovesKeepInvariant := by
  intro h h' m r hinv hmove
  cases m with
  | create =>
    cases hmove
    exact Session.Inv.create h.machine
  | loadProgram bytes =>
    cases hopen : h.mayLoad with
    | false => cases (Session.move_loadProgram_of_closed hopen).symm.trans hmove
    | true =>
      rcases Nat.lt_or_ge 3584 bytes.length with hlong | hfit
      · cases (Session.move_loadProgram_of_too_long hopen hlong).symm.trans hmove
        exact hinv
      · cases (Session.move_loadProgram_of_fits hopen hfit).symm.trans hmove
        exact hinv.setMem hopen (Memory.wf_writeBytes _ _ _ hinv.machineInv.memCanonical) false
  | setKey index pressed =>
    rcases Nat.lt_or_ge index 16 with hlt | hge
    · cases (Session.move_setKey_of_lt hlt pressed).symm.trans hmove
      exact hinv.setKeys _
    · cases (Session.move_setKey_of_ge hge pressed).symm.trans hmove
      exact hinv
  | step =>
    obtain ⟨t, hstep⟩ := everyStepAnswersNextState h.machine
    cases (Session.move_step hstep).symm.trans hmove
    exact ⟨stepKeepsInvariant _ t hinv.machineInv hstep, nofun, step_noByte _ t hinv.noByteHeld hstep⟩
  | stepWith b =>
    obtain ⟨t, hstep⟩ := everyStepAnswersNextState (h.machine.setRandIn (some b))
    cases (Session.move_stepWith hstep).symm.trans hmove
    exact ⟨(stepKeepsInvariant _ t (hinv.machineInv.setRandIn _) hstep).setRandIn none, nofun, rfl⟩

end Sys2Proof.Machine

namespace Sys2Proof

open Machine

/-! ### The random byte (46_host_operations.md R207) -/

/-- `Cxnn` alone consumes a random byte: it counts the byte, and none is ready after it. -/
theorem Instr.writer_random {i : Instr} (h : .randDraws ∈ i.writes ∨ .randIn ∈ i.writes) :
    ∃ x nn, i = .rndVxNn x nn := by
  cases i with
  | rndVxNn x nn => exact ⟨x, nn, rfl⟩
  | _ => simp [Instr.writes, firstRegisters] at h

end Sys2Proof

namespace Sys2Proof.Machine

/-- A step that fetches a `Cxnn` masks one random byte into `Vx` and consumes it. -/
theorem step_rndVxNn {s : State} {op : Word} {x : RegIdx} {nn : Byte} (hrun : s.status ≠ .halted)
    (hfetch : s.fetch? = some op) (hop : decodeWord op = .rndVxNn x nn) :
    step s = .next ((s.tick.advance.setV x (s.rand &&& nn)).usedRand.setStatus .running) := by
  rw [step_exec s op hrun hfetch, hop]
  rfl

/-- Settles O46: `Cxnn` consumes one byte, and what no other instruction writes stays as the tick left it. -/
theorem onlyRndConsumesRandomBytes : Obligations.OnlyRndConsumesRandomBytes := by
  refine fun s t hrun hstep => ⟨fun ⟨op, x, nn, hfetch, hop⟩ => ?_, fun hother => ?_⟩
  · cases (step_rndVxNn hrun hfetch hop).symm.trans hstep
    exact ⟨rfl, rfl⟩
  · have hnot : ∀ op, s.fetch? = some op →
        ¬ (.randDraws ∈ (decodeWord op).writes ∨ .randIn ∈ (decodeWord op).writes) := by
      intro op hfetch hwrites
      obtain ⟨x, nn, hop⟩ := Instr.writer_random hwrites
      exact hother op x nn hfetch hop
    exact ⟨step_keeps_part (p := .randDraws) hrun hstep (fun op hfetch hmem => hnot op hfetch (.inl hmem)) (by simp),
      step_keeps_part (p := .randIn) hrun hstep (fun op hfetch hmem => hnot op hfetch (.inr hmem)) (by simp)⟩

/-! ### The pulses of the input ports, one equation per case (46_host_operations.md R209) -/

section
variable {h : Session} {p : PortsIn}

theorem Session.pulse_of_rst (hrst : p.rst = true) :
    h.pulse p = some { machine := h.machine.create, mayLoad := true } := by
  simp [Session.pulse, hrst, Session.move]

theorem Session.pulse_of_legal_load (hrst : p.rst = false) (hld : p.ldWe = true) (hopen : h.mayLoad = true)
    (hstep : p.stepEn = false) (haddr : 0x200 ≤ p.ldAddr.toNat) :
    h.pulse p = some { machine := h.machine.setMem (h.machine.mem.write p.ldAddr.toNat p.ldData), mayLoad := true } := by
  have hload := (h.machine.loadByte?_eq_some _ p.ldAddr p.ldData).2 ⟨haddr, rfl⟩
  simp [Session.pulse, hrst, hld, Session.loadLegal, hopen, hstep, hload]

theorem Session.pulse_of_illegal_load (hrst : p.rst = false) (hld : p.ldWe = true)
    (hillegal : h.mayLoad = false ∨ p.stepEn = true ∨ p.ldAddr.toNat < 0x200) : h.pulse p = none := by
  rcases hillegal with hclosed | hstep | haddr
  · simp [Session.pulse, hrst, hld, Session.loadLegal, hclosed]
  · simp [Session.pulse, hrst, hld, Session.loadLegal, hstep]
  · simp [Session.pulse, hrst, hld, State.loadByte?, haddr]

/-- A step pulse is the host's step with a named byte, on the keys of the port. -/
theorem Session.pulse_of_stepEn (hrst : p.rst = false) (hld : p.ldWe = false) (hstep : p.stepEn = true) :
    h.pulse p =
      (Session.move { h with machine := h.machine.withKeyPort p.key } (.stepWith p.rand)).map Prod.fst := by
  simp [Session.pulse, hrst, hld, hstep]

theorem Session.pulse_of_idle (hrst : p.rst = false) (hld : p.ldWe = false) (hstep : p.stepEn = false) :
    h.pulse p = some h := by
  simp [Session.pulse, hrst, hld, hstep]

end

/-- The machine as a step pulse starts it: the keys of the port sampled, and the byte of the port `rand` ready (R209). -/
def State.sampled (s : State) (p : PortsIn) : State := (s.withKeyPort p.key).setRandIn (some p.rand)

theorem State.key_sampled (s : State) (p : PortsIn) (k : Nat) : (s.sampled p).key k = p.key.getLsbD k := by
  rw [State.sampled, State.key_setRandIn, State.key_withKeyPort]

@[simp] theorem State.status_sampled (s : State) (p : PortsIn) : (s.sampled p).status = s.status := by
  rw [State.sampled, State.setRandIn_status, State.withKeyPort_status]

@[simp] theorem State.fetch?_sampled (s : State) (p : PortsIn) : (s.sampled p).fetch? = s.fetch? := by
  rw [State.sampled, State.fetch?_setRandIn, State.fetch?_withKeyPort]

@[simp] theorem State.rand_sampled (s : State) (p : PortsIn) : (s.sampled p).rand = p.rand := rfl

theorem keepsExcept_sampled (s : State) (p : PortsIn) : KeepsExcept [.keys, .randIn] s (s.sampled p) :=
  (keepsExcept_setKeys s _).trans (keepsExcept_setRandIn _ _)

/-- A step pulse is one step from the sampled state; no byte is held after it. -/
theorem Session.pulse_of_step_sampled {h : Session} {p : PortsIn} {t : State} (hrst : p.rst = false)
    (hld : p.ldWe = false) (hen : p.stepEn = true) (hstep : step (h.machine.sampled p) = .next t) :
    h.pulse p = some { machine := t.setRandIn none, mayLoad := false } := by
  have hmove := Session.move_stepWith (h := { h with machine := h.machine.withKeyPort p.key }) (b := p.rand) hstep
  rw [Session.pulse_of_stepEn hrst hld hen, hmove, Option.map_some]

/-- Settles O59, by the pulses' equations; a `Cxnn` gets the byte the sampled state has ready. -/
theorem pulsePerformsOneOperation : Obligations.PulsePerformsOneOperation := by
  refine fun h p => ⟨Session.pulse_of_rst, fun hrst hld hopen hen haddr => ?_, Session.pulse_of_illegal_load,
    fun hrst hld hen => ?_, fun op x nn hrst hld hen hrun hfetch hop => ?_, Session.pulse_of_idle⟩
  · have hinside : p.ldAddr.toNat < 4096 := p.ldAddr.isLt
    refine ⟨_, Session.pulse_of_legal_load hrst hld hopen hen haddr, ?_, fun c hc => ?_,
      (keepsExcept_setMem _ _).unchangedExcept⟩
    · exact (Memory.read_write _ _ _ _ hinside).trans (if_pos rfl)
    · exact Memory.read_write_ne _ _ c _ hc
  · obtain ⟨t, hstep⟩ := everyStepAnswersNextState (h.machine.sampled p)
    exact ⟨h.machine.sampled p, t, h.machine.key_sampled p, rfl, (keepsExcept_sampled _ p).unchangedExcept, hstep,
      Session.pulse_of_step_sampled hrst hld hen hstep⟩
  · rw [← h.machine.status_sampled p] at hrun
    rw [← h.machine.fetch?_sampled p] at hfetch
    have hstep := step_rndVxNn hrun hfetch hop
    refine ⟨_, Session.pulse_of_step_sampled hrst hld hen hstep, ?_⟩
    rw [State.getV_setRandIn, State.getV_setStatus, State.getV_usedRand, State.getV_setV_same, State.rand_sampled]

/-! ### The pulses keep the invariant, and the output ports show the state (46_host_operations.md R209) -/

/-- Every pulse that has a meaning keeps the session's invariant. -/
theorem Session.Inv.pulse {h h' : Session} {p : PortsIn} (hinv : h.Inv) (hpulse : h.pulse p = some h') : h'.Inv := by
  cases hrst : p.rst with
  | true =>
    cases (Session.pulse_of_rst hrst).symm.trans hpulse
    exact Session.Inv.create h.machine
  | false =>
    cases hld : p.ldWe with
    | true =>
      by_cases hillegal : h.mayLoad = false ∨ p.stepEn = true ∨ p.ldAddr.toNat < 0x200
      · cases (Session.pulse_of_illegal_load hrst hld hillegal).symm.trans hpulse
      · obtain ⟨hopen, hen, haddr⟩ : h.mayLoad = true ∧ p.stepEn = false ∧ 0x200 ≤ p.ldAddr.toNat := by
          simpa using hillegal
        cases (Session.pulse_of_legal_load hrst hld hopen hen haddr).symm.trans hpulse
        exact hinv.setMem hopen (Memory.wf_write _ _ _ hinv.machineInv.memCanonical) true
    | false =>
      cases hen : p.stepEn with
      | true =>
        rw [Session.pulse_of_stepEn hrst hld hen] at hpulse
        obtain ⟨⟨_, r⟩, hmove, rfl⟩ := Option.map_eq_some_iff.1 hpulse
        exact hostMovesKeepInvariant _ _ _ r (hinv.setKeys _) hmove
      | false =>
        cases (Session.pulse_of_idle hrst hld hen).symm.trans hpulse
        exact hinv

/-- No two run statuses share a code (10_state.md R34). -/
theorem RunStatus.code_inj {a b : RunStatus} : a.code = b.code ↔ a = b := by
  cases a <;> cases b <;> decide

/-- No two causes share a code (60_exceptions.md R221). -/
theorem Cause.code_inj {a b : Cause} : a.code = b.code ↔ a = b := by
  cases a <;> cases b <;> decide

/-- Settles O60: each output is the part it shows, and a code tells its status or cause apart from the others. -/
theorem pulseKeepsInvariantAndPortsShowState : Obligations.PulseKeepsInvariantAndPortsShowState := by
  refine ⟨fun _ _ _ => Session.Inv.pulse, fun s => ⟨fun y x hy hx => ?_, rfl, rfl, bne_iff_ne,
    RunStatus.code_inj (b := .running), RunStatus.code_inj (b := .awaitingKey), RunStatus.code_inj (b := .halted),
    Cause.code_inj (b := .none), Cause.code_inj (b := .pcOutOfBounds), Cause.code_inj (b := .stackUnderflow),
    Cause.code_inj (b := .stackOverflow), Cause.code_inj (b := .memoryAccess), Cause.code_inj (b := .keyIndex), rfl⟩⟩
  rw [State.portsOut_disp, State.readDisplay_getElem? s hy hx]

end Sys2Proof.Machine

namespace Sys2Proof.Machine

/-! ### The fault table of a whole step (60_exceptions.md R221 to R228) -/

/-- The fault entry records its cause and datum and changes nothing but the run status and `PC` beside them (R224, R225). -/
theorem haltedAt_takeFault (s : State) (c : Cause) (info a : Word) : HaltedAt c info a s (s.takeFault c info a) :=
  ⟨rfl, rfl, rfl, rfl, ((keepsExcept_takeFault s c info a).mono (by simp)).unchangedExcept⟩

/-- A step that ends by the tables runs on or waits (40_step_cycle.md R101). -/
theorem EndsByTable.status_ne_halted {s t : State} {i : Instr} (h : EndsByTable s i t) : t.status ≠ .halted := by
  rcases h.status with hrun | ⟨hwait, -⟩
  · simp [hrun]
  · simp [hwait]

/-- Where the table gives a fault, of the fetch or of the instruction fetched, the step is the tick and the fault entry at
the old `PC`. -/
theorem step_of_fault?_some {s : State} {c : Cause} {info : Word} (hrun : s.status ≠ .halted)
    (hfault : s.fault? = some (c, info)) : step s = .next (s.tick.takeFault c info s.pc) := by
  cases hfetch : s.fetch? with
  | none =>
    simp only [State.fault?, hfetch] at hfault
    cases hfault
    exact step_fetchFault s hrun hfetch
  | some op =>
    simp only [State.fault?, hfetch] at hfault
    rw [step_exec s op hrun hfetch]
    exact exec_of_executeFault?_some hfault

/-- Where the table gives no fault, a word is fetched and its execute phase ends by the table of 10_state.md R26. -/
theorem exec_of_fault?_none {s : State} (hfault : s.fault? = none) :
    ∃ op t, s.fetch? = some op ∧ exec (decodeWord op) s.tick.advance = .next t ∧ EndsByTable s (decodeWord op) t := by
  cases hfetch : s.fetch? with
  | none => simp [State.fault?, hfetch] at hfault
  | some op =>
    simp only [State.fault?, hfetch] at hfault
    obtain ⟨t, hexec, hend⟩ := exec_of_executeFault?_none hfault
    exact ⟨op, t, rfl, hexec, hend⟩

/-- Settles O42: a fault of the table is the fault entry and nothing else; every other step leaves the machine running or
waiting, and only the fault entry writes the fault record. -/
theorem stepFaultsExactlyByTable : Obligations.StepFaultsExactlyByTable := by
  refine fun s hrun => ⟨fun c info hfault => ?_, fun hfault => ?_⟩
  · exact ⟨_, step_of_fault?_some hrun hfault, haltedAt_takeFault s.tick c info s.pc⟩
  · obtain ⟨op, t, hfetch, hexec, hend⟩ := exec_of_fault?_none hfault
    have hrecord := exec_keeps_record hexec hend.status_ne_halted
    exact ⟨t, (step_exec s op hrun hfetch).trans hexec, hend.status_ne_halted, hrecord⟩

/-! ### The reset state (70_reset_and_hazards.md R250) -/

/-- The reset contents, by the last byte of the font region instead of its size (10_state.md R39). -/
theorem Memory.initial_eq (a : Nat) :
    Memory.initial a = if 0x050 ≤ a ∧ a ≤ 0x09F then Config.fontRom.getD (a - 0x050) 0 else 0 :=
  if_congr (and_congr_right' Nat.lt_succ_iff) rfl rfl

theorem State.reset_getV (x : RegIdx) : State.reset.getV x = 0 := Vector.getElem_replicate _

theorem State.reset_key (k : Nat) : State.reset.key k = false := by
  by_cases hk : k < 16
  · simp [State.key, State.reset, hk]
  · simp [State.key, hk]

/-- Settles O50: at reset memory reads as its reset contents, the display is the cleared one, and no key is down. -/
theorem resetStateIsTheSpecs : Obligations.ResetStateIsTheSpecs :=
  ⟨fun s => (keepsExcept_create s).unchangedExcept, fun a _ => Memory.initial_eq a, rfl, State.reset_getV, rfl, rfl, rfl,
    rfl, rfl, Display.pixel_clear, State.reset_key, rfl, rfl, rfl⟩

end Sys2Proof.Machine
